-- ==== Sys2Proof/Word.lean ====
section
/-! DEFINITION. The word types of the GF2M-EMSA block (00_scope.md R5: XLEN = 32, NREG = 16, 16-bit
field elements; 10_state.md R28: one byte per address). -/

namespace Sys2Proof

/-- A general register, a CSR read value, a command word: 32 bits (R5, R11, R15, R60). -/
abbrev Word := BitVec 32

/-- A field element as stored in a table or serialised: 16 bits (R5, ELEM_BITS). -/
abbrev Half := BitVec 16

/-- One byte of BUF or of a byte store (R28). -/
abbrev Byte := BitVec 8

/-- The number of a general register, X0 to X15; every value is legal (R11, R61). -/
abbrev Reg := Fin 16

end Sys2Proof
end

