-- ==== Sys2Proof/Syntax.lean ====
section
/-! DEFINITION. The 44 commands of 30_encoding.md R63, one constructor per row of opcode_table.json.
Operands carry exactly the bits their field has (R61): a register is 4 bits, a CSR number 8 bits and an
immediate 16 bits. A CSR number need not name a CSR: it is decoded and raises IllegalCsr when the
command executes (R61). -/

namespace Sys2Proof

/-- A command. In a field command the operands are in the order rd, rs1, rs2 (R67). -/
inductive Instr where
  -- system (40_system.md)
  | li (rd : Reg) (imm16 : BitVec 16)
  | lih (rd : Reg) (imm16 : BitVec 16)
  | csrr (rd : Reg) (csr : BitVec 8)
  | csrw (csr : BitVec 8) (rs : Reg)
  | csrwi (csr : BitVec 8) (imm16 : BitVec 16)
  | reset
  -- field instance and primitive lookups (42_gf_field.md)
  | gfLog (rd rs1 : Reg)
  | gfExp (rd rs1 : Reg)
  | gfRed (rd rs1 : Reg)
  | gfInit
  -- multiply (43_gf_multiply.md)
  | gfMul (rd rs1 rs2 : Reg)
  | gfMulNnn (rd rs1 rs2 : Reg)
  | gfMulLll (rd rs1 rs2 : Reg)
  | gfMulRrr (rd rs1 rs2 : Reg)
  | gfMulNrr (rd rs1 rs2 : Reg)
  | gfMulRrn (rd rs1 rs2 : Reg)
  | gfMulLnn (rd rs1 rs2 : Reg)
  | gfMulRnn (rd rs1 rs2 : Reg)
  | gfMulNrn (rd rs1 rs2 : Reg)
  | gfMulZrz (rd rs1 rs2 : Reg)
  -- divide (44_gf_divide.md)
  | gfDiv (rd rs1 rs2 : Reg)
  | gfDivNnn (rd rs1 rs2 : Reg)
  | gfDivRnn (rd rs1 rs2 : Reg)
  | gfDivRnr (rd rs1 rs2 : Reg)
  | gfDivNrr (rd rs1 rs2 : Reg)
  | gfDivZzr (rd rs1 rs2 : Reg)
  | gfDivRrr (rd rs1 rs2 : Reg)
  -- square, square root, inverse, power (45_gf_square_inverse_power.md)
  | gfSqr (rd rs1 : Reg)
  | gfSqrLn (rd rs1 : Reg)
  | gfSqrRr (rd rs1 : Reg)
  | gfSqrt (rd rs1 : Reg)
  | gfInv (rd rs1 : Reg)
  | gfInvRn (rd rs1 : Reg)
  | gfInvRr (rd rs1 : Reg)
  | gfPow (rd rs1 rs2 : Reg)
  -- codec (46_gf_codec.md)
  | gfEnc (rd rs1 rs2 : Reg)
  | gfDec (rd rs1 : Reg)
  -- padding engine (41_emsa.md)
  | emsaUpdate
  | emsaRawdata
  | emsaEncode
  | emsaVerify
  | emsaName
  | emsaSetid
  | emsaSetname
  deriving DecidableEq, Repr

end Sys2Proof
end

