-- ==== Sys2Proof/Decode.lean ====
section
/-! DEFINITION. Command words to commands and back (30_encoding.md): the decoder, total on 32-bit words
and rejecting an illegal word by name; the encoder, written from R64; the mask and match table of R64;
the CSR numbers of 10_state.md R15; the pseudo-instructions and the assembler spelling of R67, R68. -/

namespace Sys2Proof

/-! ### CSR numbers -/

/-- The control and status registers of 10_state.md R15. -/
inductive Csr where
  | status | cause | faultCmd | gfM | gfQ | gfOrd
  | emsaMode | emsaExpect | emsaSrc | emsaLen | emsaDst | emsaBits | emsaAux | emsaAuxLen
  | emsaOutLen | emsaResult | emsaPendLen | emsaIdLen | emsaNameLen | emsaHashLen
  deriving DecidableEq, Repr

/-- The number of a CSR (R15). -/
def Csr.number : Csr → BitVec 8
  | .status => 0x01#8
  | .cause => 0x02#8
  | .faultCmd => 0x03#8
  | .gfM => 0x10#8
  | .gfQ => 0x11#8
  | .gfOrd => 0x12#8
  | .emsaMode => 0x20#8
  | .emsaExpect => 0x21#8
  | .emsaSrc => 0x22#8
  | .emsaLen => 0x23#8
  | .emsaDst => 0x24#8
  | .emsaBits => 0x25#8
  | .emsaAux => 0x26#8
  | .emsaAuxLen => 0x27#8
  | .emsaOutLen => 0x28#8
  | .emsaResult => 0x29#8
  | .emsaPendLen => 0x2A#8
  | .emsaIdLen => 0x2B#8
  | .emsaNameLen => 0x2C#8
  | .emsaHashLen => 0x2D#8

/-- The CSR a number names; a number outside the map of R15 names none. -/
def Csr.ofNumber (n : BitVec 8) : Option Csr :=
  match n.toNat with
  | 0x01 => some .status
  | 0x02 => some .cause
  | 0x03 => some .faultCmd
  | 0x10 => some .gfM
  | 0x11 => some .gfQ
  | 0x12 => some .gfOrd
  | 0x20 => some .emsaMode
  | 0x21 => some .emsaExpect
  | 0x22 => some .emsaSrc
  | 0x23 => some .emsaLen
  | 0x24 => some .emsaDst
  | 0x25 => some .emsaBits
  | 0x26 => some .emsaAux
  | 0x27 => some .emsaAuxLen
  | 0x28 => some .emsaOutLen
  | 0x29 => some .emsaResult
  | 0x2A => some .emsaPendLen
  | 0x2B => some .emsaIdLen
  | 0x2C => some .emsaNameLen
  | 0x2D => some .emsaHashLen
  | _ => none

/-- The read-only CSRs (R15, R205): a write to one raises IllegalCsr. -/
def Csr.readOnly : Csr → Bool
  | .status => true
  | .cause => false
  | .faultCmd => true
  | .gfM => false
  | .gfQ => true
  | .gfOrd => true
  | .emsaMode => false
  | .emsaExpect => false
  | .emsaSrc => false
  | .emsaLen => false
  | .emsaDst => false
  | .emsaBits => false
  | .emsaAux => false
  | .emsaAuxLen => false
  | .emsaOutLen => true
  | .emsaResult => true
  | .emsaPendLen => true
  | .emsaIdLen => true
  | .emsaNameLen => true
  | .emsaHashLen => true

/-- The name of a CSR in assembler text (R15, R67). -/
def Csr.name : Csr → String
  | .status => "STATUS"
  | .cause => "CAUSE"
  | .faultCmd => "FAULTCMD"
  | .gfM => "GF_M"
  | .gfQ => "GF_Q"
  | .gfOrd => "GF_ORD"
  | .emsaMode => "EMSA_MODE"
  | .emsaExpect => "EMSA_EXPECT"
  | .emsaSrc => "EMSA_SRC"
  | .emsaLen => "EMSA_LEN"
  | .emsaDst => "EMSA_DST"
  | .emsaBits => "EMSA_BITS"
  | .emsaAux => "EMSA_AUX"
  | .emsaAuxLen => "EMSA_AUXLEN"
  | .emsaOutLen => "EMSA_OUTLEN"
  | .emsaResult => "EMSA_RESULT"
  | .emsaPendLen => "EMSA_PENDLEN"
  | .emsaIdLen => "EMSA_IDLEN"
  | .emsaNameLen => "EMSA_NAMELEN"
  | .emsaHashLen => "EMSA_HASHLEN"

/-! ### Fields of a word (R61) -/

/-- Bits 7:0, the opcode (R60). -/
def opcodeField (w : Word) : BitVec 8 := w.extractLsb' 0 8

/-- The 4-bit register number at bits lo+3:lo (R61). -/
def regField (w : Word) (lo : Nat) : Reg := (w.extractLsb' lo 4).toFin

/-- Bits 31:16, the immediate of formats I and K (R62). -/
def immField (w : Word) : BitVec 16 := w.extractLsb' 16 16

/-- Bits lo+len-1:lo are zero, as the format demands (R61, R66). -/
def zeroField (w : Word) (lo len : Nat) : Bool := w.extractLsb' lo len == 0

/-- Why a word is illegal (R66). -/
inductive Reject where
  /-- Bits 7:0 are no opcode of R63. -/
  | unassignedOpcode
  /-- A bit that the format marks 0 is 1. -/
  | mustBeZero
  deriving DecidableEq, Repr

/-- The command, if the bits that must be zero are (R61, R66). -/
def checkZero (ok : Bool) (i : Instr) : Except Reject Instr :=
  if ok then .ok i else .error .mustBeZero

/-- Format R: bits 31:20 zero, rs2 19:16, rs1 15:12, rd 11:8 (R61). -/
def decodeR (w : Word) (mk : Reg → Reg → Reg → Instr) : Except Reject Instr :=
  checkZero (zeroField w 20 12) (mk (regField w 8) (regField w 12) (regField w 16))

/-- Format R1: bits 31:16 zero, rs1 15:12, rd 11:8 (R61). -/
def decodeR1 (w : Word) (mk : Reg → Reg → Instr) : Except Reject Instr :=
  checkZero (zeroField w 16 16) (mk (regField w 8) (regField w 12))

/-- Format I: imm16 31:16, bits 15:12 zero, rd 11:8 (R61). -/
def decodeI (w : Word) (mk : Reg → BitVec 16 → Instr) : Except Reject Instr :=
  checkZero (zeroField w 12 4) (mk (regField w 8) (immField w))

/-- Format C: bits 31:24 zero, csr 23:16, bits 15:12 zero, r 11:8 (R61). -/
def decodeC (w : Word) (mk : Reg → BitVec 8 → Instr) : Except Reject Instr :=
  checkZero (zeroField w 12 4 && zeroField w 24 8) (mk (regField w 8) (w.extractLsb' 16 8))

/-- Format K: imm16 31:16, csr 15:8; no bit must be zero (R61). -/
def decodeK (w : Word) (mk : BitVec 8 → BitVec 16 → Instr) : Except Reject Instr :=
  .ok (mk (w.extractLsb' 8 8) (immField w))

/-- Format N: bits 31:8 zero (R61). -/
def decodeN (w : Word) (i : Instr) : Except Reject Instr :=
  checkZero (zeroField w 8 24) i

/-- The decoder: every 32-bit word is one of the 44 commands or illegal (R63, R66). -/
def decode (w : Word) : Except Reject Instr :=
  match (opcodeField w).toNat with
  | 0x01 => decodeI w .li
  | 0x02 => decodeI w .lih
  | 0x04 => decodeC w .csrr
  | 0x05 => decodeC w fun r csr => .csrw csr r
  | 0x06 => decodeK w .csrwi
  | 0x0F => decodeN w .reset
  | 0x10 => decodeR1 w .gfLog
  | 0x11 => decodeR1 w .gfExp
  | 0x12 => decodeR1 w .gfRed
  | 0x18 => decodeN w .gfInit
  | 0x20 => decodeR w .gfMul
  | 0x21 => decodeR w .gfMulNnn
  | 0x22 => decodeR w .gfMulLll
  | 0x23 => decodeR w .gfMulRrr
  | 0x24 => decodeR w .gfMulNrr
  | 0x25 => decodeR w .gfMulRrn
  | 0x26 => decodeR w .gfMulLnn
  | 0x27 => decodeR w .gfMulRnn
  | 0x28 => decodeR w .gfMulNrn
  | 0x29 => decodeR w .gfMulZrz
  | 0x30 => decodeR w .gfDiv
  | 0x31 => decodeR w .gfDivNnn
  | 0x32 => decodeR w .gfDivRnn
  | 0x33 => decodeR w .gfDivRnr
  | 0x34 => decodeR w .gfDivNrr
  | 0x35 => decodeR w .gfDivZzr
  | 0x36 => decodeR w .gfDivRrr
  | 0x40 => decodeR1 w .gfSqr
  | 0x41 => decodeR1 w .gfSqrLn
  | 0x42 => decodeR1 w .gfSqrRr
  | 0x48 => decodeR1 w .gfSqrt
  | 0x50 => decodeR1 w .gfInv
  | 0x51 => decodeR1 w .gfInvRn
  | 0x52 => decodeR1 w .gfInvRr
  | 0x60 => decodeR w .gfPow
  | 0x70 => decodeR w .gfEnc
  | 0x71 => decodeR1 w .gfDec
  | 0x80 => decodeN w .emsaUpdate
  | 0x81 => decodeN w .emsaRawdata
  | 0x82 => decodeN w .emsaEncode
  | 0x83 => decodeN w .emsaVerify
  | 0x84 => decodeN w .emsaName
  | 0x88 => decodeN w .emsaSetid
  | 0x89 => decodeN w .emsaSetname
  | _ => .error .unassignedOpcode

/-! ### The encoder (R64) -/

/-- A register number placed at bit lo. -/
def regBits (r : Reg) (lo : Nat) : Word := BitVec.ofNat 32 r.val <<< lo

/-- Format R: `opcode | rd << 8 | rs1 << 12 | rs2 << 16` (R64). -/
def wordR (op : Word) (rd rs1 rs2 : Reg) : Word := op ||| regBits rd 8 ||| regBits rs1 12 ||| regBits rs2 16

/-- Format R1: `opcode | rd << 8 | rs1 << 12` (R64). -/
def wordR1 (op : Word) (rd rs1 : Reg) : Word := op ||| regBits rd 8 ||| regBits rs1 12

/-- Format I: `opcode | rd << 8 | imm16 << 16` (R64). -/
def wordI (op : Word) (rd : Reg) (imm16 : BitVec 16) : Word := op ||| regBits rd 8 ||| imm16.setWidth 32 <<< 16

/-- Format C: `opcode | r << 8 | csr << 16` (R64). -/
def wordC (op : Word) (r : Reg) (csr : BitVec 8) : Word := op ||| regBits r 8 ||| csr.setWidth 32 <<< 16

/-- Format K: `opcode | csr << 8 | imm16 << 16` (R64). -/
def wordK (op : Word) (csr : BitVec 8) (imm16 : BitVec 16) : Word :=
  op ||| csr.setWidth 32 <<< 8 ||| imm16.setWidth 32 <<< 16

/-- The word of a command (R63, R64). -/
def encode : Instr → Word
  | .li rd imm16 => wordI 0x01 rd imm16
  | .lih rd imm16 => wordI 0x02 rd imm16
  | .csrr rd csr => wordC 0x04 rd csr
  | .csrw csr rs => wordC 0x05 rs csr
  | .csrwi csr imm16 => wordK 0x06 csr imm16
  | .reset => 0x0F
  | .gfLog rd rs1 => wordR1 0x10 rd rs1
  | .gfExp rd rs1 => wordR1 0x11 rd rs1
  | .gfRed rd rs1 => wordR1 0x12 rd rs1
  | .gfInit => 0x18
  | .gfMul rd rs1 rs2 => wordR 0x20 rd rs1 rs2
  | .gfMulNnn rd rs1 rs2 => wordR 0x21 rd rs1 rs2
  | .gfMulLll rd rs1 rs2 => wordR 0x22 rd rs1 rs2
  | .gfMulRrr rd rs1 rs2 => wordR 0x23 rd rs1 rs2
  | .gfMulNrr rd rs1 rs2 => wordR 0x24 rd rs1 rs2
  | .gfMulRrn rd rs1 rs2 => wordR 0x25 rd rs1 rs2
  | .gfMulLnn rd rs1 rs2 => wordR 0x26 rd rs1 rs2
  | .gfMulRnn rd rs1 rs2 => wordR 0x27 rd rs1 rs2
  | .gfMulNrn rd rs1 rs2 => wordR 0x28 rd rs1 rs2
  | .gfMulZrz rd rs1 rs2 => wordR 0x29 rd rs1 rs2
  | .gfDiv rd rs1 rs2 => wordR 0x30 rd rs1 rs2
  | .gfDivNnn rd rs1 rs2 => wordR 0x31 rd rs1 rs2
  | .gfDivRnn rd rs1 rs2 => wordR 0x32 rd rs1 rs2
  | .gfDivRnr rd rs1 rs2 => wordR 0x33 rd rs1 rs2
  | .gfDivNrr rd rs1 rs2 => wordR 0x34 rd rs1 rs2
  | .gfDivZzr rd rs1 rs2 => wordR 0x35 rd rs1 rs2
  | .gfDivRrr rd rs1 rs2 => wordR 0x36 rd rs1 rs2
  | .gfSqr rd rs1 => wordR1 0x40 rd rs1
  | .gfSqrLn rd rs1 => wordR1 0x41 rd rs1
  | .gfSqrRr rd rs1 => wordR1 0x42 rd rs1
  | .gfSqrt rd rs1 => wordR1 0x48 rd rs1
  | .gfInv rd rs1 => wordR1 0x50 rd rs1
  | .gfInvRn rd rs1 => wordR1 0x51 rd rs1
  | .gfInvRr rd rs1 => wordR1 0x52 rd rs1
  | .gfPow rd rs1 rs2 => wordR 0x60 rd rs1 rs2
  | .gfEnc rd rs1 rs2 => wordR 0x70 rd rs1 rs2
  | .gfDec rd rs1 => wordR1 0x71 rd rs1
  | .emsaUpdate => 0x80
  | .emsaRawdata => 0x81
  | .emsaEncode => 0x82
  | .emsaVerify => 0x83
  | .emsaName => 0x84
  | .emsaSetid => 0x88
  | .emsaSetname => 0x89

/-! ### The mask and match table (R64) -/

/-- The must-be-fixed bits of each format (R64). -/
def maskR : Word := 0xFFF000FF
/-- See `maskR`. -/
def maskR1 : Word := 0xFFFF00FF
/-- See `maskR`. -/
def maskI : Word := 0x0000F0FF
/-- See `maskR`. -/
def maskC : Word := 0xFF00F0FF
/-- See `maskR`. -/
def maskK : Word := 0x000000FF
/-- See `maskR`. -/
def maskN : Word := 0xFFFFFFFF

/-- A row of the opcode map (R63): mnemonic, mask, match. -/
structure Row where
  mnemonic : String
  mask : Word
  pattern : Word
  deriving DecidableEq, Repr

/-- The 44 rows of R63, by family. -/
def systemRows : List Row := [
  ⟨"LI", maskI, 0x01⟩,
  ⟨"LIH", maskI, 0x02⟩,
  ⟨"CSRR", maskC, 0x04⟩,
  ⟨"CSRW", maskC, 0x05⟩,
  ⟨"CSRWI", maskK, 0x06⟩,
  ⟨"RESET", maskN, 0x0F⟩]

/-- See `systemRows`. -/
def fieldRows : List Row := [
  ⟨"GF.LOG", maskR1, 0x10⟩,
  ⟨"GF.EXP", maskR1, 0x11⟩,
  ⟨"GF.RED", maskR1, 0x12⟩,
  ⟨"GF.INIT", maskN, 0x18⟩]

/-- See `systemRows`. -/
def mulRows : List Row := [
  ⟨"GF.MUL", maskR, 0x20⟩,
  ⟨"GF.MUL.NNN", maskR, 0x21⟩,
  ⟨"GF.MUL.LLL", maskR, 0x22⟩,
  ⟨"GF.MUL.RRR", maskR, 0x23⟩,
  ⟨"GF.MUL.NRR", maskR, 0x24⟩,
  ⟨"GF.MUL.RRN", maskR, 0x25⟩,
  ⟨"GF.MUL.LNN", maskR, 0x26⟩,
  ⟨"GF.MUL.RNN", maskR, 0x27⟩,
  ⟨"GF.MUL.NRN", maskR, 0x28⟩,
  ⟨"GF.MUL.ZRZ", maskR, 0x29⟩]

/-- See `systemRows`. -/
def divRows : List Row := [
  ⟨"GF.DIV", maskR, 0x30⟩,
  ⟨"GF.DIV.NNN", maskR, 0x31⟩,
  ⟨"GF.DIV.RNN", maskR, 0x32⟩,
  ⟨"GF.DIV.RNR", maskR, 0x33⟩,
  ⟨"GF.DIV.NRR", maskR, 0x34⟩,
  ⟨"GF.DIV.ZZR", maskR, 0x35⟩,
  ⟨"GF.DIV.RRR", maskR, 0x36⟩]

/-- See `systemRows`. -/
def sqrInvPowRows : List Row := [
  ⟨"GF.SQR", maskR1, 0x40⟩,
  ⟨"GF.SQR.LN", maskR1, 0x41⟩,
  ⟨"GF.SQR.RR", maskR1, 0x42⟩,
  ⟨"GF.SQRT", maskR1, 0x48⟩,
  ⟨"GF.INV", maskR1, 0x50⟩,
  ⟨"GF.INV.RN", maskR1, 0x51⟩,
  ⟨"GF.INV.RR", maskR1, 0x52⟩,
  ⟨"GF.POW", maskR, 0x60⟩]

/-- See `systemRows`. -/
def codecRows : List Row := [
  ⟨"GF.ENC", maskR, 0x70⟩,
  ⟨"GF.DEC", maskR1, 0x71⟩]

/-- See `systemRows`. -/
def emsaRows : List Row := [
  ⟨"EMSA.UPDATE", maskN, 0x80⟩,
  ⟨"EMSA.RAWDATA", maskN, 0x81⟩,
  ⟨"EMSA.ENCODE", maskN, 0x82⟩,
  ⟨"EMSA.VERIFY", maskN, 0x83⟩,
  ⟨"EMSA.NAME", maskN, 0x84⟩,
  ⟨"EMSA.SETID", maskN, 0x88⟩,
  ⟨"EMSA.SETNAME", maskN, 0x89⟩]

/-- The complete opcode map (R63). -/
def commandTable : List Row :=
  systemRows ++ fieldRows ++ mulRows ++ divRows ++ sqrInvPowRows ++ codecRows ++ emsaRows

/-- `word & mask == match` (R64). -/
def Row.matches (row : Row) (w : Word) : Bool := w &&& row.mask == row.pattern

/-! ### What the host reads -/

/-- The command that the low `nbits` bits of `w` encode, every higher bit 0. A command is one 32-bit word
and has no byte order (R60, 20_memory.md R46). Log entry 16. -/
def decodeTableWord (nbits w : Nat) : Option Instr :=
  (decode (BitVec.ofNat 32 (w % 2 ^ nbits))).toOption

/-! ### Pseudo-instructions and assembler text (R67, R68, R151) -/

/-- The four spellings that are not commands (R68). -/
inductive Pseudo where
  | gfMulRnr (rd ry ra : Reg)
  | gfMulNnr (rd ry ra : Reg)
  | gfMulZzr (rd ry ra : Reg)
  | li32 (rd : Reg) (imm32 : Word)
  deriving DecidableEq, Repr

/-- The commands a pseudo-instruction expands to (R68, R151). -/
def Pseudo.expand : Pseudo → List Instr
  | .gfMulRnr rd ry ra => [.gfMulRrn rd ra ry]
  | .gfMulNnr rd ry ra => [.gfMulNrn rd ra ry]
  | .gfMulZzr rd ry ra => [.gfMulZrz rd ra ry]
  | .li32 rd imm32 => [.li rd (imm32.extractLsb' 0 16), .lih rd (imm32.extractLsb' 16 16)]

/-- A register in assembler text: `x0` to `x15` (R67). -/
def regText (r : Reg) : String := "x" ++ toString r.val

/-- A CSR in assembler text: its name, or its number where it names none (R67). -/
def csrText (n : BitVec 8) : String :=
  match Csr.ofNumber n with
  | some c => c.name
  | none => toString n.toNat

/-- One line: the mnemonic, then the operands separated by commas (R67). -/
def asmLine (mnemonic : String) (operands : List String) : String :=
  if operands = [] then mnemonic else mnemonic ++ " " ++ ", ".intercalate operands

/-- The assembler spelling of a command (R67). -/
def Instr.asm : Instr → String
  | .li rd imm16 => asmLine "LI" [regText rd, toString imm16.toNat]
  | .lih rd imm16 => asmLine "LIH" [regText rd, toString imm16.toNat]
  | .csrr rd csr => asmLine "CSRR" [regText rd, csrText csr]
  | .csrw csr rs => asmLine "CSRW" [csrText csr, regText rs]
  | .csrwi csr imm16 => asmLine "CSRWI" [csrText csr, toString imm16.toNat]
  | .reset => asmLine "RESET" []
  | .gfLog rd rs1 => asmLine "GF.LOG" [regText rd, regText rs1]
  | .gfExp rd rs1 => asmLine "GF.EXP" [regText rd, regText rs1]
  | .gfRed rd rs1 => asmLine "GF.RED" [regText rd, regText rs1]
  | .gfInit => asmLine "GF.INIT" []
  | .gfMul rd rs1 rs2 => asmLine "GF.MUL" [regText rd, regText rs1, regText rs2]
  | .gfMulNnn rd rs1 rs2 => asmLine "GF.MUL.NNN" [regText rd, regText rs1, regText rs2]
  | .gfMulLll rd rs1 rs2 => asmLine "GF.MUL.LLL" [regText rd, regText rs1, regText rs2]
  | .gfMulRrr rd rs1 rs2 => asmLine "GF.MUL.RRR" [regText rd, regText rs1, regText rs2]
  | .gfMulNrr rd rs1 rs2 => asmLine "GF.MUL.NRR" [regText rd, regText rs1, regText rs2]
  | .gfMulRrn rd rs1 rs2 => asmLine "GF.MUL.RRN" [regText rd, regText rs1, regText rs2]
  | .gfMulLnn rd rs1 rs2 => asmLine "GF.MUL.LNN" [regText rd, regText rs1, regText rs2]
  | .gfMulRnn rd rs1 rs2 => asmLine "GF.MUL.RNN" [regText rd, regText rs1, regText rs2]
  | .gfMulNrn rd rs1 rs2 => asmLine "GF.MUL.NRN" [regText rd, regText rs1, regText rs2]
  | .gfMulZrz rd rs1 rs2 => asmLine "GF.MUL.ZRZ" [regText rd, regText rs1, regText rs2]
  | .gfDiv rd rs1 rs2 => asmLine "GF.DIV" [regText rd, regText rs1, regText rs2]
  | .gfDivNnn rd rs1 rs2 => asmLine "GF.DIV.NNN" [regText rd, regText rs1, regText rs2]
  | .gfDivRnn rd rs1 rs2 => asmLine "GF.DIV.RNN" [regText rd, regText rs1, regText rs2]
  | .gfDivRnr rd rs1 rs2 => asmLine "GF.DIV.RNR" [regText rd, regText rs1, regText rs2]
  | .gfDivNrr rd rs1 rs2 => asmLine "GF.DIV.NRR" [regText rd, regText rs1, regText rs2]
  | .gfDivZzr rd rs1 rs2 => asmLine "GF.DIV.ZZR" [regText rd, regText rs1, regText rs2]
  | .gfDivRrr rd rs1 rs2 => asmLine "GF.DIV.RRR" [regText rd, regText rs1, regText rs2]
  | .gfSqr rd rs1 => asmLine "GF.SQR" [regText rd, regText rs1]
  | .gfSqrLn rd rs1 => asmLine "GF.SQR.LN" [regText rd, regText rs1]
  | .gfSqrRr rd rs1 => asmLine "GF.SQR.RR" [regText rd, regText rs1]
  | .gfSqrt rd rs1 => asmLine "GF.SQRT" [regText rd, regText rs1]
  | .gfInv rd rs1 => asmLine "GF.INV" [regText rd, regText rs1]
  | .gfInvRn rd rs1 => asmLine "GF.INV.RN" [regText rd, regText rs1]
  | .gfInvRr rd rs1 => asmLine "GF.INV.RR" [regText rd, regText rs1]
  | .gfPow rd rs1 rs2 => asmLine "GF.POW" [regText rd, regText rs1, regText rs2]
  | .gfEnc rd rs1 rs2 => asmLine "GF.ENC" [regText rd, regText rs1, regText rs2]
  | .gfDec rd rs1 => asmLine "GF.DEC" [regText rd, regText rs1]
  | .emsaUpdate => asmLine "EMSA.UPDATE" []
  | .emsaRawdata => asmLine "EMSA.RAWDATA" []
  | .emsaEncode => asmLine "EMSA.ENCODE" []
  | .emsaVerify => asmLine "EMSA.VERIFY" []
  | .emsaName => asmLine "EMSA.NAME" []
  | .emsaSetid => asmLine "EMSA.SETID" []
  | .emsaSetname => asmLine "EMSA.SETNAME" []

end Sys2Proof
end

