-- ==== Sys2Proof/Config.lean ====
section
/-! DEFINITION. The parameters of the block: the capacities that 00_scope.md R5 fixes, and the ones it
leaves OPEN (`LOG`, `EXP`, `Hash`, HASH_OUT_LEN), as constants without a body. -/

namespace Sys2Proof

/-- BUF_SIZE, bytes of buffer memory (R5). -/
def Config.bufSize : Nat := 65536

/-- MSG_CAP, capacity of PENDING in RAW mode (R5). -/
def Config.msgCap : Nat := 4096

/-- HASH_IN_CAP, capacity of PENDING in HASHED mode (R5). -/
def Config.hashInCap : Nat := 4294967295

/-- ID_CAP, capacity of the HASH_ID store (R5). -/
def Config.idCap : Nat := 64

/-- NAME_CAP, capacity of the HASH_NAME store (R5). -/
def Config.nameCap : Nat := 64

/-- PS_MIN, minimum length of the padding string (R5). -/
def Config.psMin : Nat := 8

/-- The pair of tables the provider hands over for one degree: `log` is the log-table, `exp` the
exp-table, each an array of 16-bit entries (R5, R31 (a), R120). -/
structure TablePair where
  log : List Half
  exp : List Half
  deriving DecidableEq, Repr, Inhabited

/-- The OPEN parameters of a run that are plain data (R5, R31): the tables for the degrees 1 to 16
(entry m − 1 is the pair of degree m) and HASH_OUT_LEN, held as its predecessor so that
1 ≤ HASH_OUT_LEN ≤ 4096 always holds. -/
structure Params where
  tables : Vector TablePair 16
  hashOutLenPred : Fin 4096
  deriving DecidableEq, Repr, Inhabited

/-- The parameters the machine powers up with: OPEN (R5), so nothing is known of them.
DESIGN CHOICE, log entry 6: they ride in State, where claims quantify over them. -/
opaque Config.params : Params

/-- Byte `i` of `Hash(msg)` when HASH_OUT_LEN is `outLen`: the external hash function is an
uninterpreted parameter (R5, R31 (b); D22). Log entry 7. -/
opaque Config.hashByte (outLen : Nat) (msg : List Byte) (i : Nat) : Byte

end Sys2Proof
end

