-- ==== Sys2Proof/Machine/State.lean ====
section
/-! DEFINITION. The state of the block as plain data (10_state.md R10), the host's side of its ports
(20_memory.md R47), the reasons a step can stop (60_exceptions.md R210) and the reset state
(70_reset_and_hazards.md R231). -/

namespace Sys2Proof.Machine

/-- The status codes of 60_exceptions.md R201. -/
inductive Status where
  | ok
  | illegalCommand
  | illegalCsr
  | illegalState
  | badConfig
  | bufRange
  | capacity
  | encodingFailure
  | invalidArgument
  deriving DecidableEq, Repr

/-- EMSA_MODE: 0 = HASHED, 1 = RAW (10_state.md R22). -/
inductive EmsaMode where
  | hashed
  | raw
  deriving DecidableEq, Repr

/-- What the host does between commands: present a command word (10_state.md R13), use the host port
(20_memory.md R47) or raise the reset input (70_reset_and_hazards.md R230). A BUF address at the port is
0 to 65535, so it has 16 bits. -/
inductive HostAction where
  | command (word : Word)
  | memWrite (addr : BitVec 16) (byte : Byte)
  | memRead (addr : BitVec 16)
  | regRead (r : Reg)
  | resetInput
  deriving DecidableEq, Repr

/-- What the block answers: a command's status (R201), a byte or a register the host reads (R47). -/
inductive Response where
  | status (code : Status)
  | memData (byte : Byte)
  | regData (word : Word)
  deriving DecidableEq, Repr

/-- The complete state. The fields down to `hashName` are R10's tuple; the rest is the host's side of the
ports and the run's parameters. -/
structure State where
  /-- X0 to X15 (R11). -/
  x : Vector Word 16
  /-- Which X registers have been written since reset (R12). Only Safety reads it. Log entry 20. -/
  xWritten : Vector Bool 16
  /-- BUF (R28): the written bytes, addresses strictly rising; an unlisted byte is unwritten (R44). -/
  buf : List Host.Cell
  /-- CAUSE (R17). -/
  cause : Word
  /-- FAULTCMD (R18). -/
  faultCmd : Word
  /-- GF_M (R19). -/
  gfM : Word
  /-- FROZEN (R20). -/
  frozen : Bool
  /-- EMSA_MODE (R22). -/
  emsaMode : EmsaMode
  /-- EMSA_EXPECT (R23). -/
  emsaExpect : Word
  /-- EMSA_SRC (R24). -/
  emsaSrc : Word
  /-- EMSA_LEN (R24). -/
  emsaLen : Word
  /-- EMSA_DST (R24). -/
  emsaDst : Word
  /-- EMSA_BITS (R24). -/
  emsaBits : Word
  /-- EMSA_AUX (R24). -/
  emsaAux : Word
  /-- EMSA_AUXLEN (R24). -/
  emsaAuxLen : Word
  /-- EMSA_OUTLEN (R25). -/
  emsaOutLen : Word
  /-- EMSA_RESULT (R26). -/
  emsaResult : Bool
  /-- PENDING (R29). -/
  pending : List Byte
  /-- HASH_ID (R30). -/
  hashId : List Byte
  /-- HASH_NAME (R30). -/
  hashName : List Byte
  /-- The host's actions not yet taken, oldest first (R13, R47). Log entry 3. -/
  inputs : List HostAction
  /-- The answers given so far, oldest first (R203). Log entry 4. -/
  responses : List Response
  /-- The index of the next command, R13's bookkeeping. Log entry 5. -/
  index : Nat
  /-- The parameters of the run (R31), which nothing changes. Log entry 6. -/
  params : Params
  deriving DecidableEq, Repr

/-- Undefined behaviour (60_exceptions.md R210): the model ends the run and assigns no value, where the
hardware makes no check and may do anything. Every one is safe: it can make a claim unprovable, never a
false one provable. UnwrittenRegister is a hazard in Safety and no fault (log entry 1). -/
inductive Fault where
  /-- An n-tagged operand is 0. Raised by GF.LOG, GF.INV, GF.INV.RN, GF.SQR.LN, GF.DIV's divisor and the
  n operands of the tagged multiplies and divides. Safe. -/
  | zeroOperand
  /-- A z- or n-tagged operand is q or more. Raised by every command with such an operand. Safe. -/
  | elementRange
  /-- An r-tagged operand is above ord. Raised by every command with such an operand. Safe. -/
  | logRange
  /-- GF.POW with base 0 and a negative exponent. Raised by GF.POW. Safe. -/
  | zeroToNegativePower
  /-- LOG[0] is read. Raised by none while the operand checks stand (R120). Safe. -/
  | logOfZero
  /-- A table is read outside its q entries. Raised by none while the tables meet R121; with tables that
  do not, by the commands that look up (log entry 8). Safe. -/
  | tableIndex
  /-- A BUF byte not written since reset is read. Raised by GF.DEC, EMSA.UPDATE, EMSA.SETID,
  EMSA.SETNAME, EMSA.ENCODE, EMSA.VERIFY and the host's read of BUF (R42, R44, R47). Safe. -/
  | unwrittenMemory
  deriving DecidableEq, Repr

/-- Why a step has no meaning. No arm of exec is refused. -/
inductive Refusal where
  /-- exec's arm for an instruction without a meaning. Raised by none. Safe. -/
  | notModelled (mnemonic : String)
  deriving DecidableEq, Repr

/-- The three outcomes of a command or a step. -/
abbrev Result := Host.Outcome State Fault Refusal

/-- The reset state (R231), which is also the state after power-on (R230): X and BUF unwritten, every
control register 0, HASHED mode, the stores empty, no field instance. The value 0 of the unwritten X
registers is a DESIGN CHOICE, log entry 1, unsafe; the host's side is empty (log entries 3, 4). -/
def State.reset : State where
  x := Vector.replicate 16 0
  xWritten := Vector.replicate 16 false
  buf := []
  cause := 0
  faultCmd := 0
  gfM := 0
  frozen := false
  emsaMode := .hashed
  emsaExpect := 0
  emsaSrc := 0
  emsaLen := 0
  emsaDst := 0
  emsaBits := 0
  emsaAux := 0
  emsaAuxLen := 0
  emsaOutLen := 0
  emsaResult := false
  pending := []
  hashId := []
  hashName := []
  inputs := []
  responses := []
  index := 0
  params := Config.params

end Sys2Proof.Machine
end

