-- ==== Sys2Proof/Machine/Flags.lean ====
section
/-! DEFINITION. The block has no condition flags (10_state.md R14). What stands in their place: the status
codes (60_exceptions.md R201) and the two bits of STATUS (10_state.md R16). -/

namespace Sys2Proof.Machine

/-- The 8-bit code of a status (R201). -/
def Status.code : Status → Byte
  | .ok => 0
  | .illegalCommand => 1
  | .illegalCsr => 2
  | .illegalState => 3
  | .badConfig => 4
  | .bufRange => 5
  | .capacity => 6
  | .encodingFailure => 7
  | .invalidArgument => 8

/-- A truth value as bit 0 of a CSR, bits 31:1 reading 0 (R26). -/
def bitWord (b : Bool) : Word := if b then 1 else 0

/-- Bit 0 of STATUS, GF_READY: FROZEN (R16). -/
def State.gfReady (s : State) : Bool := s.frozen

/-- Bit 1 of STATUS, EMSA_BUSY: PENDING is not empty (R16). -/
def State.emsaBusy (s : State) : Bool := !s.pending.isEmpty

/-- STATUS (R16). -/
def State.statusWord (s : State) : Word := bitWord s.gfReady ||| bitWord s.emsaBusy <<< 1

/-- EMSA_MODE as a CSR reads: 0 = HASHED, 1 = RAW (R22). -/
def EmsaMode.word : EmsaMode → Word
  | .hashed => 0
  | .raw => 1

end Sys2Proof.Machine
end

