-- ==== Sys2Proof/Machine/Operands.lean ====
section
/-! DEFINITION. How a register value becomes an operand of a field command: the readings of 00_scope.md R6,
the tag checks of 42_gf_field.md R129, the table lookups of R120 and the reduction of R123. Everything is
exact integer arithmetic; a result is narrowed once, when it is stored (`u32`). -/

namespace Sys2Proof.Machine

/-- `u32(v)`: v modulo 2^32 (R6). -/
def u32 (v : Int) : Word := BitVec.ofInt 32 v

/-- `s32(v)`: the signed reading (R6). -/
def s32 (v : Word) : Int := v.toInt

/-- The field instance that GF.INIT constructs: the degree M and the pair of tables bound for it
(R125; 10_state.md R31 (a)). -/
structure Field where
  m : Nat
  tables : TablePair
  deriving DecidableEq, Repr

/-- q = 2^M (10_state.md R21). -/
def Field.q (f : Field) : Nat := 2 ^ f.m

/-- ord = q − 1 (10_state.md R21). -/
def Field.ord (f : Field) : Nat := f.q - 1

/-- The provider's tables for degree m (10_state.md R31 (a), 70_reset_and_hazards.md R240). A degree
outside 1 to 16 has none (log entry 17). -/
def tablesFor (p : Params) (m : Nat) : TablePair :=
  if m = 0 then ⟨[], []⟩ else (p.tables.toList[m - 1]?).getD ⟨[], []⟩

/-- The field instance of a state: GF_M and its tables (R21: "M, q and ord mean GF_M, GF_Q and GF_ORD with
FROZEN = 1"). -/
def State.field (s : State) : Field := ⟨s.gfM.toNat, tablesFor s.params s.gfM.toNat⟩

/-- `LOG[v]` (R120). An entry the provider's list lacks lies outside the table (log entry 8). -/
def Field.log (f : Field) (v : Nat) : Except Fault Int :=
  if v = 0 then .error .logOfZero
  else if f.q ≤ v then .error .tableIndex
  else match f.tables.log[v]? with
    | some e => .ok e.toNat
    | none => .error .tableIndex

/-- `EXP[i]` (R120), defined for 0 ≤ i ≤ ord. An entry the provider's list lacks lies outside the table
(log entry 8). -/
def Field.exp (f : Field) (i : Int) : Except Fault Int :=
  if i < 0 ∨ (f.ord : Int) < i then .error .tableIndex
  else match f.tables.exp[i.toNat]? with
    | some e => .ok e.toNat
    | none => .error .tableIndex

/-- `reduce(d) = (d & ord) + (d >> M)` with the AND on the two's-complement pattern of d and the
arithmetic shift (R123). -/
def Field.reduce (f : Field) (d : Int) : Int :=
  ((u32 d &&& BitVec.ofNat 32 f.ord).toNat : Int) + d >>> f.m

/-- `elemZ`: a z-tagged operand (R129). -/
def Field.elemZ (f : Field) (v : Word) : Except Fault Nat :=
  if f.q ≤ v.toNat then .error .elementRange else .ok v.toNat

/-- `elemN`: an n-tagged operand; range before zero (R129). -/
def Field.elemN (f : Field) (v : Word) : Except Fault Nat :=
  if f.q ≤ v.toNat then .error .elementRange
  else if v.toNat = 0 then .error .zeroOperand
  else .ok v.toNat

/-- `logR`: an r-tagged operand, 0 to ord (R129; 90_conflicts.md C2). -/
def Field.logR (f : Field) (v : Word) : Except Fault Int :=
  if f.ord < v.toNat then .error .logRange else .ok v.toNat

/-- `logL`: an l-tagged operand, any value, read as signed (R129). -/
def logL (v : Word) : Int := s32 v

end Sys2Proof.Machine
end

