-- ==== Sys2Proof/Machine/Ops.lean ====
section
/-! DEFINITION. The named operations over memory, registers, control registers and the ports, and how a
command ends: OK, an error status (60_exceptions.md R203) or an undefined case (R210). -/

namespace Sys2Proof.Machine

/-! ### BUF (20_memory.md) -/

/-- BUF as the list of its written bytes. -/
abbrev Memory := List Host.Cell

/-- The canonical form: addresses strictly rising, every address below BUF_SIZE (R40). An unlisted address
reads as no value, so every entry differs from it. -/
def Memory.wf : Memory → Bool
  | [] => true
  | [(a, _)] => a < Config.bufSize
  | (a, _) :: (b, c) :: m => a < b && Memory.wf ((b, c) :: m)

/-- The byte at an address; none when it is unwritten (R42, R44). -/
def Memory.read : Memory → Nat → Option Byte
  | [], _ => none
  | (k, b) :: m, a => if a = k then some b else Memory.read m a

/-- Writes one byte and marks it written (R43). -/
def Memory.write : Memory → Nat → Byte → Memory
  | [], a, b => [(a, b)]
  | (k, c) :: m, a, b =>
    if a < k then (a, b) :: (k, c) :: m
    else if a = k then (a, b) :: m
    else (k, c) :: Memory.write m a b

/-- `MemRead(a, n)`: the n bytes from a, in address order; none if one is unwritten (R42). -/
def Memory.readRange (m : Memory) (a : Nat) : Nat → Option (List Byte)
  | 0 => some []
  | n + 1 =>
    match Memory.read m a, Memory.readRange m (a + 1) n with
    | some b, some bs => some (b :: bs)
    | _, _ => none

/-- `MemWrite(a, n, s)` with n = len(s): byte i of s at a + i (R43). -/
def Memory.writeRange : Memory → Nat → List Byte → Memory
  | m, _, [] => m
  | m, a, b :: bs => Memory.writeRange (Memory.write m a b) (a + 1) bs

/-- The range check `a + n <= BUF_SIZE`, on exact integers (R41). -/
def inBuf (a n : Nat) : Bool := a + n ≤ Config.bufSize

/-- `BE16bytes(v)`: the two bytes of a 16-bit value, the more significant first (R45). -/
def be16Bytes (v : Half) : List Byte := [v.extractLsb' 8 8, v.extractLsb' 0 8]

/-- `BE16(b0, b1)` = 256·b0 + b1 (R45), as the value of a byte sequence read from BUF. -/
def be16 (bs : List Byte) : Nat := bs.foldl (fun v b => 256 * v + b.toNat) 0

/-! ### X registers (10_state.md R11, R12) -/

/-- `x[i]`. A register that nothing has written holds its reset value (log entry 1). -/
def State.readReg (s : State) (r : Reg) : Word := s.x[r.val]

/-- `x[i] <- v`, and the register is now written (R12). -/
def State.writeReg (s : State) (r : Reg) (v : Word) : State :=
  { s with x := s.x.set r.val v, xWritten := s.xWritten.set r.val true }

/-! ### Named updates -/

/-- BUF replaced. -/
def State.setBuf (s : State) (m : Memory) : State := { s with buf := m }

/-- PENDING replaced (R29). -/
def State.setPending (s : State) (bs : List Byte) : State := { s with pending := bs }

/-- HASH_ID replaced (R30). -/
def State.setHashId (s : State) (bs : List Byte) : State := { s with hashId := bs }

/-- HASH_NAME replaced (R30). -/
def State.setHashName (s : State) (bs : List Byte) : State := { s with hashName := bs }

/-- EMSA_OUTLEN written by the block (R25). -/
def State.setOutLen (s : State) (n : Nat) : State := { s with emsaOutLen := BitVec.ofNat 32 n }

/-- EMSA_RESULT written by the block (R26). -/
def State.setResult (s : State) (b : Bool) : State := { s with emsaResult := b }

/-- FROZEN set: the field instance exists (R20). -/
def State.freeze (s : State) : State := { s with frozen := true }

/-- One more answer on the response port or the host port (60_exceptions.md R201). -/
def State.respond (s : State) (r : Response) : State := { s with responses := s.responses ++ [r] }

/-- CAUSE and FAULTCMD written together (R17, R18, R203). -/
def State.latchError (s : State) (c : Status) (word : Word) : State :=
  { s with cause := c.code.setWidth 32, faultCmd := word }

/-- CAUSE and FAULTCMD cleared together (R17, R216). -/
def State.clearError (s : State) : State := { s with cause := 0, faultCmd := 0 }

/-- The host's next action is taken from the queue. -/
def State.takeInput (s : State) (rest : List HostAction) : State := { s with inputs := rest }

/-- The index of the next command advances by 1 (R13). -/
def State.countCommand (s : State) : State := { s with index := s.index + 1 }

/-- Every item of R10 at its reset value (R86, R230). The run's parameters and the host's side stay:
they are no state of the block (R31, R232; log entries 18, 19). -/
def State.resetBlock (s : State) : State :=
  { State.reset with inputs := s.inputs, responses := s.responses, index := s.index, params := s.params }

/-! ### How a command ends -/

/-- `respond(OK)`: CAUSE and FAULTCMD stay (R200 (a)). -/
def done (s : State) : Result := .next (s.respond (.status .ok))

/-- Error entry for a command word (R203): the response carries the code, CAUSE and FAULTCMD record it,
nothing else changes, and the next command is executed as usual. -/
def raiseWord (word : Word) (c : Status) (s : State) : Result :=
  .next ((s.latchError c word).respond (.status c))

/-- `raise <Code>` in command i. Its word is the one `encode` gives, since a command has only one word
(log entry 10). -/
def raise (i : Instr) (c : Status) (s : State) : Result := raiseWord (encode i) c s

/-- What the decoder does with an illegal word (R66, R204). -/
def illegalCommand (word : Word) (s : State) : Result := raiseWord word .illegalCommand s

/-- The end of a command whose only effect is the value of rd, or which is undefined. -/
def writeResult (rd : Reg) (v : Except Fault Int) (s : State) : Result :=
  match v with
  | .ok v => done (s.writeReg rd (u32 v))
  | .error e => .fault e

/-- A field command with one source (R61 format R1): FROZEN is tested before the register is read
(R206 (a)), and only x[rd] is written (R170). -/
def fieldUnary (i : Instr) (rd rs1 : Reg) (op : Field → Word → Except Fault Int) (s : State) : Result :=
  if s.frozen then writeResult rd (op s.field (s.readReg rs1)) s else raise i .illegalState s

/-- A field command with two sources (R61 format R): FROZEN is tested before the registers are read
(R206 (a)), and only x[rd] is written (R140, R160, R170). -/
def fieldBinary (i : Instr) (rd rs1 rs2 : Reg) (op : Field → Word → Word → Except Fault Int) (s : State) :
    Result :=
  if s.frozen then writeResult rd (op s.field (s.readReg rs1) (s.readReg rs2)) s
  else raise i .illegalState s

/-- A command that consumes the n bytes of BUF at a: reading an unwritten one is undefined (R42). -/
def withBytes (a n : Nat) (k : List Byte → State → Result) (s : State) : Result :=
  match Memory.readRange s.buf a n with
  | some bs => k bs s
  | none => .fault .unwrittenMemory

/-- A command that ends by writing a byte sequence to BUF and its length to EMSA_OUTLEN (R25, R43). -/
def writeOut (a : Nat) (bs : List Byte) (s : State) : Result :=
  done ((s.setBuf (Memory.writeRange s.buf a bs)).setOutLen bs.length)

/-! ### Control registers (10_state.md R15 to R27) -/

/-- GF_Q (R21). -/
def State.gfQWord (s : State) : Word := if s.frozen then BitVec.ofNat 32 s.field.q else 0

/-- GF_ORD (R21). -/
def State.gfOrdWord (s : State) : Word := if s.frozen then BitVec.ofNat 32 s.field.ord else 0

/-- HASH_OUT_LEN, 1 to 4096 (R5, R31 (c)). -/
def State.hashOutLen (s : State) : Nat := s.params.hashOutLenPred.val + 1

/-- The read value of a CSR; reading has no side effect (R83, R16 to R27). -/
def State.readCsr (s : State) : Csr → Word
  | .status => s.statusWord
  | .cause => s.cause
  | .faultCmd => s.faultCmd
  | .gfM => s.gfM
  | .gfQ => s.gfQWord
  | .gfOrd => s.gfOrdWord
  | .emsaMode => s.emsaMode.word
  | .emsaExpect => s.emsaExpect
  | .emsaSrc => s.emsaSrc
  | .emsaLen => s.emsaLen
  | .emsaDst => s.emsaDst
  | .emsaBits => s.emsaBits
  | .emsaAux => s.emsaAux
  | .emsaAuxLen => s.emsaAuxLen
  | .emsaOutLen => s.emsaOutLen
  | .emsaResult => bitWord s.emsaResult
  | .emsaPendLen => BitVec.ofNat 32 s.pending.length
  | .emsaIdLen => BitVec.ofNat 32 s.hashId.length
  | .emsaNameLen => BitVec.ofNat 32 s.hashName.length
  | .emsaHashLen => BitVec.ofNat 32 s.hashOutLen

/-- The state forbids a write of this CSR now (R84): GF_M while FROZEN = 1 (R19), EMSA_MODE and EMSA_EXPECT
while PENDING is not empty (R22, R23). -/
def State.csrLocked (s : State) : Csr → Bool
  | .gfM => s.frozen
  | .emsaMode => s.emsaBusy
  | .emsaExpect => s.emsaBusy
  | _ => false

/-- The value is outside the legal set of the CSR (R22). -/
def csrValueBad (c : Csr) (v : Word) : Bool :=
  match c with
  | .emsaMode => 1 < v.toNat
  | _ => false

/-- `csr[c] <- v` for a writable CSR; any write of CAUSE clears CAUSE and FAULTCMD (R17, R84). A read-only
CSR keeps its value. -/
def State.writeCsr (s : State) (c : Csr) (v : Word) : State :=
  match c with
  | .cause => s.clearError
  | .gfM => { s with gfM := v }
  | .emsaMode => { s with emsaMode := if v = 0 then .hashed else .raw }
  | .emsaExpect => { s with emsaExpect := v }
  | .emsaSrc => { s with emsaSrc := v }
  | .emsaLen => { s with emsaLen := v }
  | .emsaDst => { s with emsaDst := v }
  | .emsaBits => { s with emsaBits := v }
  | .emsaAux => { s with emsaAux := v }
  | .emsaAuxLen => { s with emsaAuxLen := v }
  | .status | .faultCmd | .gfQ | .gfOrd | .emsaOutLen | .emsaResult | .emsaPendLen | .emsaIdLen
  | .emsaNameLen | .emsaHashLen => s

/-- CSRW and CSRWI after the operand is known, in the order of R84: IllegalCsr, IllegalState, BadConfig. -/
def csrWrite (i : Instr) (n : BitVec 8) (v : Word) (s : State) : Result :=
  match Csr.ofNumber n with
  | none => raise i .illegalCsr s
  | some c =>
    if c.readOnly then raise i .illegalCsr s
    else if s.csrLocked c then raise i .illegalState s
    else if csrValueBad c v then raise i .badConfig s
    else done (s.writeCsr c v)

end Sys2Proof.Machine
end

