-- ==== Sys2Proof/Machine/Emsa.lean ====
section
/-! DEFINITION. The EMSA-PKCS1-v1.5 padding formatter and verifier (41_emsa.md). -/

namespace Sys2Proof.Machine

/-- `ceil(bits / 8)` (R91). -/
def outputLen (bits : Nat) : Nat := (bits + 7) / 8

/-- `PS_len = output_len − 3 − len(DigestInfo)`, which may be negative (R91). -/
def psLen (hashId digest : List Byte) (bits : Nat) : Int :=
  (outputLen bits : Int) - 3 - (hashId ++ digest).length

/-- `EmsaEncode(hash_id, digest, bits)`; none is `Failure` (R91). -/
def emsaEncode (hashId digest : List Byte) (bits : Nat) : Option (List Byte) :=
  if psLen hashId digest bits < Config.psMin then none
  else some ([0x00, 0x01] ++ List.replicate (psLen hashId digest bits).toNat 0xFF ++ [0x00] ++ hashId ++ digest)

/-- The external function `Hash`, of output length HASH_OUT_LEN for every input (10_state.md R31 (b)). Log
entry 7. -/
def State.hash (s : State) (msg : List Byte) : List Byte :=
  (List.range s.hashOutLen).map (Config.hashByte s.hashOutLen msg)

/-- The capacity of PENDING in the present mode (R95). -/
def State.pendingCap (s : State) : Nat :=
  match s.emsaMode with
  | .hashed => Config.hashInCap
  | .raw => Config.msgCap

/-- EMSA.UPDATE (R95). -/
def execEmsaUpdate (s : State) : Result :=
  let a := s.emsaSrc.toNat
  let n := s.emsaLen.toNat
  if !inBuf a n then raise .emsaUpdate .bufRange s
  else if s.pendingCap < s.pending.length + n then raise .emsaUpdate .capacity s
  else withBytes a n (fun bs s => done (s.setPending (s.pending ++ bs))) s

/-- Loading a byte store from BUF (R96, R97): IllegalState, BufRange, Capacity, in that order. -/
def loadStore (i : Instr) (cap : Nat) (store : State → List Byte → State) (s : State) : Result :=
  let a := s.emsaSrc.toNat
  let n := s.emsaLen.toNat
  if s.emsaBusy then raise i .illegalState s
  else if !inBuf a n then raise i .bufRange s
  else if cap < n then raise i .capacity s
  else withBytes a n (fun bs s => done (store s bs)) s

/-- EMSA.SETID (R96). -/
def execEmsaSetid (s : State) : Result := loadStore .emsaSetid Config.idCap State.setHashId s

/-- EMSA.SETNAME (R97). -/
def execEmsaSetname (s : State) : Result := loadStore .emsaSetname Config.nameCap State.setHashName s

/-- EMSA.RAWDATA in HASHED mode (R98). -/
def rawdataHashed (s : State) : Result :=
  let d := s.emsaDst.toNat
  if !inBuf d s.hashOutLen then raise .emsaRawdata .bufRange s
  else writeOut d (s.hash s.pending) (s.setPending [])

/-- EMSA.RAWDATA in RAW mode (R99): PENDING is emptied before the expected length is tested (R93). -/
def rawdataRaw (s : State) : Result :=
  let n := s.pending.length
  let d := s.emsaDst.toNat
  if !inBuf d n then raise .emsaRawdata .bufRange s
  else if s.emsaExpect ≠ 0 ∧ n ≠ s.emsaExpect.toNat then raise .emsaRawdata .invalidArgument (s.setPending [])
  else writeOut d s.pending (s.setPending [])

/-- EMSA.RAWDATA (R98, R99). -/
def execEmsaRawdata (s : State) : Result :=
  match s.emsaMode with
  | .hashed => rawdataHashed s
  | .raw => rawdataRaw s

/-- EMSA.ENCODE (R101): all input is read before any output is written; PENDING is emptied before the
encoding can fail (R93). -/
def execEmsaEncode (s : State) : Result :=
  let d := s.emsaDst.toNat
  let bits := s.emsaBits.toNat
  if !inBuf s.emsaSrc.toNat s.emsaLen.toNat then raise .emsaEncode .bufRange s
  else if !inBuf d (outputLen bits) then raise .emsaEncode .bufRange s
  else withBytes s.emsaSrc.toNat s.emsaLen.toNat (fun digest s =>
    match emsaEncode s.hashId digest bits with
    | none => raise .emsaEncode .encodingFailure (s.setPending [])
    | some block => writeOut d block (s.setPending [])) s

/-- The value of the comparison in EMSA.VERIFY: exact, full-length equality with the rebuilt block, false
when no block can be built (R104). -/
def verifyValue (hashId raw coded : List Byte) (bits : Nat) : Bool :=
  match emsaEncode hashId raw bits with
  | none => false
  | some block => coded = block

/-- EMSA.VERIFY (R104): never an error but BufRange. -/
def execEmsaVerify (s : State) : Result :=
  if !inBuf s.emsaAux.toNat s.emsaAuxLen.toNat then raise .emsaVerify .bufRange s
  else if !inBuf s.emsaSrc.toNat s.emsaLen.toNat then raise .emsaVerify .bufRange s
  else withBytes s.emsaAux.toNat s.emsaAuxLen.toNat (fun coded s =>
    withBytes s.emsaSrc.toNat s.emsaLen.toNat (fun raw s =>
      done ((s.setPending []).setResult (verifyValue s.hashId raw coded s.emsaBits.toNat))) s) s

/-- One position of the comparator's loop (R105): `diff | (cb ^ r[i])`, with 00 past the end of coded. -/
def comparatorStep (coded block : List Byte) (diff : Byte) (i : Nat) : Byte :=
  diff ||| ((coded[i]?).getD 0 ^^^ (block[i]?).getD 0)

/-- The comparator the hardware uses (R105): every position of the block, no early exit. `verifyValue` is
what it computes; its timing is outside the model (log entry 12). -/
def comparator (coded block : List Byte) : Bool :=
  (List.range block.length).foldl (comparatorStep coded block)
    (if coded.length = block.length then 0 else 1) == 0

/-- "EMSA3(" in ASCII (R107). -/
def nameOpen : List Byte := [0x45, 0x4D, 0x53, 0x41, 0x33, 0x28]

/-- "Raw" in ASCII (R107). -/
def nameRaw : List Byte := [0x52, 0x61, 0x77]

/-- The scheme identifier (R107): no terminating zero byte. -/
def State.schemeName (s : State) : List Byte :=
  match s.emsaMode with
  | .hashed => nameOpen ++ s.hashName ++ [0x29]
  | .raw => if s.hashName = [] then nameOpen ++ nameRaw ++ [0x29]
    else nameOpen ++ nameRaw ++ [0x2C] ++ s.hashName ++ [0x29]

/-- EMSA.NAME (R107): not a terminal command. -/
def execEmsaName (s : State) : Result :=
  let d := s.emsaDst.toNat
  if !inBuf d s.schemeName.length then raise .emsaName .bufRange s
  else writeOut d s.schemeName s

end Sys2Proof.Machine
end

