-- ==== Sys2Proof/Machine/GfCodec.lean ====
section
/-! DEFINITION. The element codec (46_gf_codec.md). Neither command looks at the field instance (R190). -/

namespace Sys2Proof.Machine

/-- GF.ENC (R191): bits 15:0 of x[rs1], big-endian, at the address in x[rs2]; x[rd] <- 2. Both sources are
read before anything is written. -/
def execGfEnc (rd rs1 rs2 : Reg) (s : State) : Result :=
  let v := s.readReg rs1
  let a := (s.readReg rs2).toNat
  if inBuf a 2 then
    done ((s.setBuf (Memory.writeRange s.buf a (be16Bytes (v.extractLsb' 0 16)))).writeReg rd 2)
  else raise (.gfEnc rd rs1 rs2) .bufRange s

/-- GF.DEC (R192): the two bytes at the address in x[rs1], big-endian, zero-extended. -/
def execGfDec (rd rs1 : Reg) (s : State) : Result :=
  let a := (s.readReg rs1).toNat
  if inBuf a 2 then
    withBytes a 2 (fun bs s => done (s.writeReg rd (BitVec.ofNat 32 (be16 bs)))) s
  else raise (.gfDec rd rs1) .bufRange s

end Sys2Proof.Machine
end

