-- ==== Sys2Proof/Machine/GfDivide.lean ====
section
/-! DEFINITION. The divide family (44_gf_divide.md): the signed difference of two logarithms, reduced once
by the same identity (R160). A zero divisor is undefined, a zero dividend gives 0 (R161). -/

namespace Sys2Proof.Machine

/-- GF.DIV's value, z ← z, n (R161): 0 / 0 is undefined too, since the divisor is checked before the zero
dividend is routed. -/
def Field.divValue (f : Field) (v w : Word) : Except Fault Int := do
  let x ← f.elemZ v
  let y ← f.elemN w
  if x = 0 then return 0
  let a ← f.log x
  let b ← f.log y
  f.exp (f.reduce (a - b))

/-- GF.DIV.NNN's value, n ← n, n (R162). -/
def Field.divNnnValue (f : Field) (v w : Word) : Except Fault Int := do
  let x ← f.elemN v
  let y ← f.elemN w
  let a ← f.log x
  let b ← f.log y
  f.exp (f.reduce (a - b))

/-- GF.DIV.RNN's value, r ← n, n (R163). -/
def Field.divRnnValue (f : Field) (v w : Word) : Except Fault Int := do
  let x ← f.elemN v
  let y ← f.elemN w
  let a ← f.log x
  let b ← f.log y
  return f.reduce (a - b)

/-- GF.DIV.RNR's value, r ← n, r (R164). -/
def Field.divRnrValue (f : Field) (v w : Word) : Except Fault Int := do
  let x ← f.elemN v
  let b ← f.logR w
  let a ← f.log x
  return f.reduce (a - b)

/-- GF.DIV.NRR's value, n ← r, r (R165). -/
def Field.divNrrValue (f : Field) (v w : Word) : Except Fault Int := do
  let a ← f.logR v
  let b ← f.logR w
  f.exp (f.reduce (a - b))

/-- GF.DIV.ZZR's value, z ← z, r (R166): the zero test precedes the lookup. -/
def Field.divZzrValue (f : Field) (v w : Word) : Except Fault Int := do
  let x ← f.elemZ v
  let b ← f.logR w
  if x = 0 then return 0
  let a ← f.log x
  f.exp (f.reduce (a - b))

/-- GF.DIV.RRR's value, r ← r, r (R167). -/
def Field.divRrrValue (f : Field) (v w : Word) : Except Fault Int := do
  let a ← f.logR v
  let b ← f.logR w
  return f.reduce (a - b)

/-- GF.DIV (R161). -/
def execGfDiv (rd rs1 rs2 : Reg) (s : State) : Result :=
  fieldBinary (.gfDiv rd rs1 rs2) rd rs1 rs2 Field.divValue s

/-- GF.DIV.NNN (R162). -/
def execGfDivNnn (rd rs1 rs2 : Reg) (s : State) : Result :=
  fieldBinary (.gfDivNnn rd rs1 rs2) rd rs1 rs2 Field.divNnnValue s

/-- GF.DIV.RNN (R163). -/
def execGfDivRnn (rd rs1 rs2 : Reg) (s : State) : Result :=
  fieldBinary (.gfDivRnn rd rs1 rs2) rd rs1 rs2 Field.divRnnValue s

/-- GF.DIV.RNR (R164). -/
def execGfDivRnr (rd rs1 rs2 : Reg) (s : State) : Result :=
  fieldBinary (.gfDivRnr rd rs1 rs2) rd rs1 rs2 Field.divRnrValue s

/-- GF.DIV.NRR (R165). -/
def execGfDivNrr (rd rs1 rs2 : Reg) (s : State) : Result :=
  fieldBinary (.gfDivNrr rd rs1 rs2) rd rs1 rs2 Field.divNrrValue s

/-- GF.DIV.ZZR (R166). -/
def execGfDivZzr (rd rs1 rs2 : Reg) (s : State) : Result :=
  fieldBinary (.gfDivZzr rd rs1 rs2) rd rs1 rs2 Field.divZzrValue s

/-- GF.DIV.RRR (R167). -/
def execGfDivRrr (rd rs1 rs2 : Reg) (s : State) : Result :=
  fieldBinary (.gfDivRrr rd rs1 rs2) rd rs1 rs2 Field.divRrrValue s

end Sys2Proof.Machine
end

