-- ==== Sys2Proof/Machine/GfField.lean ====
section
/-! DEFINITION. The field instance and the primitive lookups (42_gf_field.md). -/

namespace Sys2Proof.Machine

/-- The legal degrees of GF.INIT, 1 to 16 (R125). -/
def legalDegree (m : Nat) : Bool := 1 ≤ m ∧ m ≤ 16

/-- GF.INIT (R125): the tables bound are those of the degree in GF_M (`State.field`). -/
def execGfInit (s : State) : Result :=
  if s.frozen then raise .gfInit .illegalState s
  else if legalDegree s.gfM.toNat then done s.freeze
  else raise .gfInit .badConfig s

/-- GF.LOG's value, r ← n (R126). -/
def Field.logValue (f : Field) (v : Word) : Except Fault Int := do
  let x ← f.elemN v
  f.log x

/-- GF.EXP's value, n ← r (R127). -/
def Field.expValue (f : Field) (v : Word) : Except Fault Int := do
  let a ← f.logR v
  f.exp a

/-- GF.RED's value, r ← l (R128): never undefined. -/
def Field.redValue (f : Field) (v : Word) : Except Fault Int :=
  .ok (f.reduce (logL v))

/-- GF.LOG (R126). -/
def execGfLog (rd rs1 : Reg) (s : State) : Result :=
  fieldUnary (.gfLog rd rs1) rd rs1 Field.logValue s

/-- GF.EXP (R127). -/
def execGfExp (rd rs1 : Reg) (s : State) : Result :=
  fieldUnary (.gfExp rd rs1) rd rs1 Field.expValue s

/-- GF.RED (R128). -/
def execGfRed (rd rs1 : Reg) (s : State) : Result :=
  fieldUnary (.gfRed rd rs1) rd rs1 Field.redValue s

end Sys2Proof.Machine
end

