-- ==== Sys2Proof/Machine/GfMultiply.lean ====
section
/-! DEFINITION. The multiply family (43_gf_multiply.md): the sum of two logarithms, carried as far toward
an element as the result tag asks (R140). -/

namespace Sys2Proof.Machine

/-- GF.MUL's value, z ← z, z (R141): both range tests, then the zero test, then the tables. -/
def Field.mulValue (f : Field) (v w : Word) : Except Fault Int := do
  let x ← f.elemZ v
  let y ← f.elemZ w
  if x = 0 ∨ y = 0 then return 0
  let a ← f.log x
  let b ← f.log y
  f.exp (f.reduce (a + b))

/-- GF.MUL.NNN's value, n ← n, n (R142). -/
def Field.mulNnnValue (f : Field) (v w : Word) : Except Fault Int := do
  let x ← f.elemN v
  let y ← f.elemN w
  let a ← f.log x
  let b ← f.log y
  f.exp (f.reduce (a + b))

/-- GF.MUL.LLL's value, l ← l, l (R143): the plain sum of any two 32-bit values; storing it wraps. -/
def Field.mulLllValue (_ : Field) (v w : Word) : Except Fault Int :=
  .ok (v.toNat + w.toNat)

/-- GF.MUL.RRR's value, r ← r, r (R144). -/
def Field.mulRrrValue (f : Field) (v w : Word) : Except Fault Int := do
  let a ← f.logR v
  let b ← f.logR w
  return f.reduce (a + b)

/-- GF.MUL.NRR's value, n ← r, r (R145). -/
def Field.mulNrrValue (f : Field) (v w : Word) : Except Fault Int := do
  let a ← f.logR v
  let b ← f.logR w
  f.exp (f.reduce (a + b))

/-- GF.MUL.RRN's value, r ← r, n (R146). -/
def Field.mulRrnValue (f : Field) (v w : Word) : Except Fault Int := do
  let a ← f.logR v
  let y ← f.elemN w
  let b ← f.log y
  return f.reduce (a + b)

/-- GF.MUL.LNN's value, l ← n, n (R147). -/
def Field.mulLnnValue (f : Field) (v w : Word) : Except Fault Int := do
  let x ← f.elemN v
  let y ← f.elemN w
  let a ← f.log x
  let b ← f.log y
  return a + b

/-- GF.MUL.RNN's value, r ← n, n (R148). -/
def Field.mulRnnValue (f : Field) (v w : Word) : Except Fault Int := do
  let x ← f.elemN v
  let y ← f.elemN w
  let a ← f.log x
  let b ← f.log y
  return f.reduce (a + b)

/-- GF.MUL.NRN's value, n ← r, n (R149). -/
def Field.mulNrnValue (f : Field) (v w : Word) : Except Fault Int := do
  let a ← f.logR v
  let y ← f.elemN w
  let b ← f.log y
  f.exp (f.reduce (a + b))

/-- GF.MUL.ZRZ's value, z ← r, z (R150): the zero test precedes the lookup of LOG[y]. -/
def Field.mulZrzValue (f : Field) (v w : Word) : Except Fault Int := do
  let a ← f.logR v
  let y ← f.elemZ w
  if y = 0 then return 0
  let b ← f.log y
  f.exp (f.reduce (a + b))

/-- GF.MUL (R141). -/
def execGfMul (rd rs1 rs2 : Reg) (s : State) : Result :=
  fieldBinary (.gfMul rd rs1 rs2) rd rs1 rs2 Field.mulValue s

/-- GF.MUL.NNN (R142). -/
def execGfMulNnn (rd rs1 rs2 : Reg) (s : State) : Result :=
  fieldBinary (.gfMulNnn rd rs1 rs2) rd rs1 rs2 Field.mulNnnValue s

/-- GF.MUL.LLL (R143). -/
def execGfMulLll (rd rs1 rs2 : Reg) (s : State) : Result :=
  fieldBinary (.gfMulLll rd rs1 rs2) rd rs1 rs2 Field.mulLllValue s

/-- GF.MUL.RRR (R144). -/
def execGfMulRrr (rd rs1 rs2 : Reg) (s : State) : Result :=
  fieldBinary (.gfMulRrr rd rs1 rs2) rd rs1 rs2 Field.mulRrrValue s

/-- GF.MUL.NRR (R145). -/
def execGfMulNrr (rd rs1 rs2 : Reg) (s : State) : Result :=
  fieldBinary (.gfMulNrr rd rs1 rs2) rd rs1 rs2 Field.mulNrrValue s

/-- GF.MUL.RRN (R146). -/
def execGfMulRrn (rd rs1 rs2 : Reg) (s : State) : Result :=
  fieldBinary (.gfMulRrn rd rs1 rs2) rd rs1 rs2 Field.mulRrnValue s

/-- GF.MUL.LNN (R147). -/
def execGfMulLnn (rd rs1 rs2 : Reg) (s : State) : Result :=
  fieldBinary (.gfMulLnn rd rs1 rs2) rd rs1 rs2 Field.mulLnnValue s

/-- GF.MUL.RNN (R148). -/
def execGfMulRnn (rd rs1 rs2 : Reg) (s : State) : Result :=
  fieldBinary (.gfMulRnn rd rs1 rs2) rd rs1 rs2 Field.mulRnnValue s

/-- GF.MUL.NRN (R149). -/
def execGfMulNrn (rd rs1 rs2 : Reg) (s : State) : Result :=
  fieldBinary (.gfMulNrn rd rs1 rs2) rd rs1 rs2 Field.mulNrnValue s

/-- GF.MUL.ZRZ (R150). -/
def execGfMulZrz (rd rs1 rs2 : Reg) (s : State) : Result :=
  fieldBinary (.gfMulZrz rd rs1 rs2) rd rs1 rs2 Field.mulZrzValue s

end Sys2Proof.Machine
end

