-- ==== Sys2Proof/Machine/GfSquareInversePower.lean ====
section
/-! DEFINITION. Square, square root, inverse and power (45_gf_square_inverse_power.md). -/

namespace Sys2Proof.Machine

/-- GF.SQR's value, z ← z (R171): the logarithm shifted left by one, reduced once. -/
def Field.sqrValue (f : Field) (v : Word) : Except Fault Int := do
  let x ← f.elemZ v
  if x = 0 then return 0
  let a ← f.log x
  f.exp (f.reduce (a <<< (1 : Nat)))

/-- GF.SQR.LN's value, l ← n (R172). -/
def Field.sqrLnValue (f : Field) (v : Word) : Except Fault Int := do
  let x ← f.elemN v
  let a ← f.log x
  return a <<< (1 : Nat)

/-- GF.SQR.RR's value, r ← r (R173). -/
def Field.sqrRrValue (f : Field) (v : Word) : Except Fault Int := do
  let a ← f.logR v
  return f.reduce (a <<< (1 : Nat))

/-- GF.SQRT's value, z ← z (R174): the logarithm shifted left by M − 1, reduced once (R175). -/
def Field.sqrtValue (f : Field) (v : Word) : Except Fault Int := do
  let x ← f.elemZ v
  if x = 0 then return 0
  let a ← f.log x
  f.exp (f.reduce (a <<< (f.m - 1)))

/-- GF.INV's value, n ← n (R176): no reduce, the index is 1 to ord. -/
def Field.invValue (f : Field) (v : Word) : Except Fault Int := do
  let x ← f.elemN v
  let a ← f.log x
  f.exp (f.ord - a)

/-- GF.INV.RN's value, r ← n (R177). -/
def Field.invRnValue (f : Field) (v : Word) : Except Fault Int := do
  let x ← f.elemN v
  let a ← f.log x
  return f.ord - a

/-- GF.INV.RR's value, r ← r (R178). -/
def Field.invRrValue (f : Field) (v : Word) : Except Fault Int := do
  let a ← f.logR v
  return f.ord - a

/-- GF.POW's value, z ← z, integer (R180): the exponent is signed, the product exact, the residue 0 to
ord − 1 also for a negative exponent; x^0 = 1 for every x. -/
def Field.powValue (f : Field) (v w : Word) : Except Fault Int := do
  let x ← f.elemZ v
  let i := s32 w
  if i = 0 then return 1
  if x = 0 then
    if i < 0 then throw .zeroToNegativePower else return 0
  let a ← f.log x
  f.exp ((a * i) % f.ord)

/-- GF.SQR (R171). -/
def execGfSqr (rd rs1 : Reg) (s : State) : Result :=
  fieldUnary (.gfSqr rd rs1) rd rs1 Field.sqrValue s

/-- GF.SQR.LN (R172). -/
def execGfSqrLn (rd rs1 : Reg) (s : State) : Result :=
  fieldUnary (.gfSqrLn rd rs1) rd rs1 Field.sqrLnValue s

/-- GF.SQR.RR (R173). -/
def execGfSqrRr (rd rs1 : Reg) (s : State) : Result :=
  fieldUnary (.gfSqrRr rd rs1) rd rs1 Field.sqrRrValue s

/-- GF.SQRT (R174). -/
def execGfSqrt (rd rs1 : Reg) (s : State) : Result :=
  fieldUnary (.gfSqrt rd rs1) rd rs1 Field.sqrtValue s

/-- GF.INV (R176). -/
def execGfInv (rd rs1 : Reg) (s : State) : Result :=
  fieldUnary (.gfInv rd rs1) rd rs1 Field.invValue s

/-- GF.INV.RN (R177). -/
def execGfInvRn (rd rs1 : Reg) (s : State) : Result :=
  fieldUnary (.gfInvRn rd rs1) rd rs1 Field.invRnValue s

/-- GF.INV.RR (R178). -/
def execGfInvRr (rd rs1 : Reg) (s : State) : Result :=
  fieldUnary (.gfInvRr rd rs1) rd rs1 Field.invRrValue s

/-- GF.POW (R180). -/
def execGfPow (rd rs1 rs2 : Reg) (s : State) : Result :=
  fieldBinary (.gfPow rd rs1 rs2) rd rs1 rs2 Field.powValue s

end Sys2Proof.Machine
end

