-- ==== Sys2Proof/Machine/System.lean ====
section
/-! DEFINITION. The system commands (40_system.md). -/

namespace Sys2Proof.Machine

/-- LI (R81). -/
def execLi (rd : Reg) (imm16 : BitVec 16) (s : State) : Result :=
  done (s.writeReg rd (imm16.setWidth 32))

/-- LIH (R82): the low half is kept. -/
def execLih (rd : Reg) (imm16 : BitVec 16) (s : State) : Result :=
  done (s.writeReg rd (imm16.setWidth 32 <<< 16 ||| ((s.readReg rd).extractLsb' 0 16).setWidth 32))

/-- CSRR (R83). -/
def execCsrr (rd : Reg) (csr : BitVec 8) (s : State) : Result :=
  match Csr.ofNumber csr with
  | none => raise (.csrr rd csr) .illegalCsr s
  | some c => done (s.writeReg rd (s.readCsr c))

/-- CSRW (R84). -/
def execCsrw (csr : BitVec 8) (rs : Reg) (s : State) : Result :=
  csrWrite (.csrw csr rs) csr (s.readReg rs) s

/-- CSRWI (R85): as CSRW with the zero-extended immediate and no register read. -/
def execCsrwi (csr : BitVec 8) (imm16 : BitVec 16) (s : State) : Result :=
  csrWrite (.csrwi csr imm16) csr (imm16.setWidth 32) s

/-- RESET (R86). -/
def execReset (s : State) : Result := done s.resetBlock

end Sys2Proof.Machine
end

