-- ==== Sys2Proof/Machine/Dispatch.lean ====
section
/-! DEFINITION. One arm per command (30_encoding.md R63). -/

namespace Sys2Proof.Machine

/-- What a decoded command does. -/
def exec (i : Instr) (s : State) : Host.Outcome State Fault Refusal :=
  match i with
  | .li rd imm16 => Sys2Proof.Machine.execLi rd imm16 s
  | .lih rd imm16 => Sys2Proof.Machine.execLih rd imm16 s
  | .csrr rd csr => Sys2Proof.Machine.execCsrr rd csr s
  | .csrw csr rs => Sys2Proof.Machine.execCsrw csr rs s
  | .csrwi csr imm16 => Sys2Proof.Machine.execCsrwi csr imm16 s
  | .reset => Sys2Proof.Machine.execReset s
  | .gfLog rd rs1 => Sys2Proof.Machine.execGfLog rd rs1 s
  | .gfExp rd rs1 => Sys2Proof.Machine.execGfExp rd rs1 s
  | .gfRed rd rs1 => Sys2Proof.Machine.execGfRed rd rs1 s
  | .gfInit => Sys2Proof.Machine.execGfInit s
  | .gfMul rd rs1 rs2 => Sys2Proof.Machine.execGfMul rd rs1 rs2 s
  | .gfMulNnn rd rs1 rs2 => Sys2Proof.Machine.execGfMulNnn rd rs1 rs2 s
  | .gfMulLll rd rs1 rs2 => Sys2Proof.Machine.execGfMulLll rd rs1 rs2 s
  | .gfMulRrr rd rs1 rs2 => Sys2Proof.Machine.execGfMulRrr rd rs1 rs2 s
  | .gfMulNrr rd rs1 rs2 => Sys2Proof.Machine.execGfMulNrr rd rs1 rs2 s
  | .gfMulRrn rd rs1 rs2 => Sys2Proof.Machine.execGfMulRrn rd rs1 rs2 s
  | .gfMulLnn rd rs1 rs2 => Sys2Proof.Machine.execGfMulLnn rd rs1 rs2 s
  | .gfMulRnn rd rs1 rs2 => Sys2Proof.Machine.execGfMulRnn rd rs1 rs2 s
  | .gfMulNrn rd rs1 rs2 => Sys2Proof.Machine.execGfMulNrn rd rs1 rs2 s
  | .gfMulZrz rd rs1 rs2 => Sys2Proof.Machine.execGfMulZrz rd rs1 rs2 s
  | .gfDiv rd rs1 rs2 => Sys2Proof.Machine.execGfDiv rd rs1 rs2 s
  | .gfDivNnn rd rs1 rs2 => Sys2Proof.Machine.execGfDivNnn rd rs1 rs2 s
  | .gfDivRnn rd rs1 rs2 => Sys2Proof.Machine.execGfDivRnn rd rs1 rs2 s
  | .gfDivRnr rd rs1 rs2 => Sys2Proof.Machine.execGfDivRnr rd rs1 rs2 s
  | .gfDivNrr rd rs1 rs2 => Sys2Proof.Machine.execGfDivNrr rd rs1 rs2 s
  | .gfDivZzr rd rs1 rs2 => Sys2Proof.Machine.execGfDivZzr rd rs1 rs2 s
  | .gfDivRrr rd rs1 rs2 => Sys2Proof.Machine.execGfDivRrr rd rs1 rs2 s
  | .gfSqr rd rs1 => Sys2Proof.Machine.execGfSqr rd rs1 s
  | .gfSqrLn rd rs1 => Sys2Proof.Machine.execGfSqrLn rd rs1 s
  | .gfSqrRr rd rs1 => Sys2Proof.Machine.execGfSqrRr rd rs1 s
  | .gfSqrt rd rs1 => Sys2Proof.Machine.execGfSqrt rd rs1 s
  | .gfInv rd rs1 => Sys2Proof.Machine.execGfInv rd rs1 s
  | .gfInvRn rd rs1 => Sys2Proof.Machine.execGfInvRn rd rs1 s
  | .gfInvRr rd rs1 => Sys2Proof.Machine.execGfInvRr rd rs1 s
  | .gfPow rd rs1 rs2 => Sys2Proof.Machine.execGfPow rd rs1 rs2 s
  | .gfEnc rd rs1 rs2 => Sys2Proof.Machine.execGfEnc rd rs1 rs2 s
  | .gfDec rd rs1 => Sys2Proof.Machine.execGfDec rd rs1 s
  | .emsaUpdate => Sys2Proof.Machine.execEmsaUpdate s
  | .emsaRawdata => Sys2Proof.Machine.execEmsaRawdata s
  | .emsaEncode => Sys2Proof.Machine.execEmsaEncode s
  | .emsaVerify => Sys2Proof.Machine.execEmsaVerify s
  | .emsaName => Sys2Proof.Machine.execEmsaName s
  | .emsaSetid => Sys2Proof.Machine.execEmsaSetid s
  | .emsaSetname => Sys2Proof.Machine.execEmsaSetname s

end Sys2Proof.Machine
end

