-- ==== Sys2Proof/Machine/HostPort.lean ====
section
/-! DEFINITION. The host port and the reset input (20_memory.md R47, 70_reset_and_hazards.md R230): what the
host does between commands. -/

namespace Sys2Proof.Machine

/-- HostMemWrite: BUF[a] <- b, marked written; no answer (R47). -/
def hostMemWrite (a : BitVec 16) (b : Byte) (s : State) : Result :=
  .next (s.setBuf (Memory.write s.buf a.toNat b))

/-- HostMemRead: BUF[a], undefined if unwritten (R47). -/
def hostMemRead (a : BitVec 16) (s : State) : Result :=
  match Memory.read s.buf a.toNat with
  | some b => .next (s.respond (.memData b))
  | none => .fault .unwrittenMemory

/-- HostRegRead: x[i] (R47). Reading a register nothing has written is a hazard, not a fault (log
entries 1, 11). -/
def hostRegRead (r : Reg) (s : State) : Result :=
  .next (s.respond (.regData (s.readReg r)))

/-- The reset input: the effect of RESET without a response (R230). -/
def hostReset (s : State) : Result := .next s.resetBlock

end Sys2Proof.Machine
end

