-- ==== Sys2Proof/Machine/Step.lean ====
section
/-! DEFINITION. One step of the machine: the host's next action (10_state.md R13, 20_memory.md R47). With
none the block is idle and keeps all its state (60_exceptions.md R220). -/

namespace Sys2Proof.Machine

/-- A command word is presented: the index advances by 1 whatever the status (10_state.md R13), the word is
decoded (40_system.md R80 (1)) and the command executed, or IllegalCommand is raised (60_exceptions.md
R204). -/
def runCommand (word : Word) (s : State) : Result :=
  match decode word with
  | .ok i => exec i s.countCommand
  | .error _ => illegalCommand word s.countCommand

/-- What one action of the host does. -/
def runAction (a : HostAction) (s : State) : Result :=
  match a with
  | .command word => runCommand word s
  | .memWrite addr byte => hostMemWrite addr byte s
  | .memRead addr => hostMemRead addr s
  | .regRead r => hostRegRead r s
  | .resetInput => hostReset s

/-- One step. -/
def step (s : State) : Host.Outcome State Fault Refusal :=
  match s.inputs with
  | [] => .next s
  | a :: rest => runAction a (s.takeInput rest)

/-- The word is what the host presents next (log entries 15, 16). -/
def State.withFetchWord (s : State) (nbits w : Nat) : State :=
  { s with inputs := .command (BitVec.ofNat 32 (w % 2 ^ nbits)) :: s.inputs }

end Sys2Proof.Machine
end

