-- ==== Sys2Proof/WellFormed.lean ====
section
/-! DEFINITION. Which commands are well formed. The operand types of `Instr` already bound every register,
immediate and CSR number (30_encoding.md R61); what is left to check is the CSR number (10_state.md R15).
A command that fails the check is still a command: it decodes, and raises IllegalCsr whenever it executes
(R61, 60_exceptions.md R205). -/

namespace Sys2Proof

/-- The number names a CSR of R15: what CSRR needs. -/
def csrReadable (n : BitVec 8) : Bool := (Csr.ofNumber n).isSome

/-- The number names a CSR of R15 that is not read-only: what CSRW and CSRWI need (R205). -/
def csrWritable (n : BitVec 8) : Bool := (Csr.ofNumber n).any fun c => !c.readOnly

/-- Every CSR that the command names exists, and one that it writes is not read-only (R205). -/
def Instr.wellFormed : Instr → Bool
  | .csrr _ csr => csrReadable csr
  | .csrw csr _ => csrWritable csr
  | .csrwi csr _ => csrWritable csr
  | .li _ _ => true
  | .lih _ _ => true
  | .reset => true
  | .gfLog _ _ => true
  | .gfExp _ _ => true
  | .gfRed _ _ => true
  | .gfInit => true
  | .gfMul _ _ _ => true
  | .gfMulNnn _ _ _ => true
  | .gfMulLll _ _ _ => true
  | .gfMulRrr _ _ _ => true
  | .gfMulNrr _ _ _ => true
  | .gfMulRrn _ _ _ => true
  | .gfMulLnn _ _ _ => true
  | .gfMulRnn _ _ _ => true
  | .gfMulNrn _ _ _ => true
  | .gfMulZrz _ _ _ => true
  | .gfDiv _ _ _ => true
  | .gfDivNnn _ _ _ => true
  | .gfDivRnn _ _ _ => true
  | .gfDivRnr _ _ _ => true
  | .gfDivNrr _ _ _ => true
  | .gfDivZzr _ _ _ => true
  | .gfDivRrr _ _ _ => true
  | .gfSqr _ _ => true
  | .gfSqrLn _ _ => true
  | .gfSqrRr _ _ => true
  | .gfSqrt _ _ => true
  | .gfInv _ _ => true
  | .gfInvRn _ _ => true
  | .gfInvRr _ _ => true
  | .gfPow _ _ _ => true
  | .gfEnc _ _ _ => true
  | .gfDec _ _ => true
  | .emsaUpdate => true
  | .emsaRawdata => true
  | .emsaEncode => true
  | .emsaVerify => true
  | .emsaName => true
  | .emsaSetid => true
  | .emsaSetname => true

end Sys2Proof
end

