-- ==== Sys2Proof/Safety.lean ====
section
/-! DEFINITION. The terms claims use: what a command leaves unchanged, how it ends, the conditions on the
tables (42_gf_field.md R121), the invariant of the machine, and what makes a run safe: no fault, and no
read of a register that nothing has written (10_state.md R12, 70_reset_and_hazards.md R235). -/

namespace Sys2Proof.Safety

open Sys2Proof.Machine

/-! ### Frames -/

/-- The answer to the command is the status c, after every earlier answer. -/
def Responds (c : Status) (s t : State) : Prop := t.responses = s.responses ++ [.status c]

/-- Every X register is unchanged. -/
def SameRegs (s t : State) : Prop := t.x = s.x ∧ t.xWritten = s.xWritten

/-- Every byte of BUF reads as before. -/
def SameBuf (s t : State) : Prop := ∀ a, Memory.read t.buf a = Memory.read s.buf a

/-- CAUSE and FAULTCMD are unchanged. -/
def SameError (s t : State) : Prop := t.cause = s.cause ∧ t.faultCmd = s.faultCmd

/-- GF_M and FROZEN are unchanged. -/
def SameGf (s t : State) : Prop := t.gfM = s.gfM ∧ t.frozen = s.frozen

/-- The six descriptors of R24 are unchanged. -/
def SameDescriptors (s t : State) : Prop :=
  t.emsaSrc = s.emsaSrc ∧ t.emsaLen = s.emsaLen ∧ t.emsaDst = s.emsaDst ∧ t.emsaBits = s.emsaBits ∧
    t.emsaAux = s.emsaAux ∧ t.emsaAuxLen = s.emsaAuxLen

/-- EMSA_MODE, EMSA_EXPECT and the descriptors are unchanged. -/
def SameEmsaConfig (s t : State) : Prop :=
  t.emsaMode = s.emsaMode ∧ t.emsaExpect = s.emsaExpect ∧ SameDescriptors s t

/-- EMSA_OUTLEN and EMSA_RESULT are unchanged. -/
def SameEmsaResults (s t : State) : Prop := t.emsaOutLen = s.emsaOutLen ∧ t.emsaResult = s.emsaResult

/-- HASH_ID and HASH_NAME are unchanged. -/
def SameHashStores (s t : State) : Prop := t.hashId = s.hashId ∧ t.hashName = s.hashName

/-- The host's queue, the command index and the run's parameters are unchanged. -/
def SamePorts (s t : State) : Prop := t.inputs = s.inputs ∧ t.index = s.index ∧ t.params = s.params

/-- Everything of the EMSA unit is unchanged. -/
def SameEmsa (s t : State) : Prop :=
  SameEmsaConfig s t ∧ SameEmsaResults s t ∧ t.pending = s.pending ∧ SameHashStores s t

/-- BUF holds the bytes bs from address a, and every other byte reads as before (20_memory.md R43). -/
def Stores (a : Nat) (bs : List Byte) (s t : State) : Prop :=
  (∀ i, i < bs.length → Memory.read t.buf (a + i) = bs[i]?) ∧
    ∀ b, b < a ∨ a + bs.length ≤ b → Memory.read t.buf b = Memory.read s.buf b

/-- x[rd] holds v and is written; every other register is unchanged (R12). -/
def SetsReg (rd : Reg) (v : Word) (s t : State) : Prop :=
  t.x[rd.val] = v ∧ t.xWritten[rd.val] = true ∧
    ∀ r : Reg, r ≠ rd → t.x[r.val] = s.x[r.val] ∧ t.xWritten[r.val] = s.xWritten[r.val]

/-- The command ended OK with v in x[rd], and nothing else changed. -/
def WritesOnly (rd : Reg) (v : Word) (s t : State) : Prop :=
  Responds .ok s t ∧ SetsReg rd v s t ∧ SameBuf s t ∧ SameError s t ∧ SameGf s t ∧ SameEmsa s t ∧ SamePorts s t

/-- Error entry (60_exceptions.md R203) with PENDING as given: the response and CAUSE carry the code,
FAULTCMD holds the word, nothing else changed. -/
def ErrorEntry (word : Word) (c : Status) (pending : List Byte) (s t : State) : Prop :=
  Responds c s t ∧ t.cause = c.code.setWidth 32 ∧ t.faultCmd = word ∧ SameRegs s t ∧ SameBuf s t ∧ SameGf s t ∧
    SameEmsaConfig s t ∧ SameEmsaResults s t ∧ t.pending = pending ∧ SameHashStores s t ∧ SamePorts s t

/-- Command i ends with the status c and changes nothing but CAUSE and FAULTCMD. -/
def Raises (i : Instr) (c : Status) (s : State) : Prop :=
  ∃ t, exec i s = .next t ∧ ErrorEntry (encode i) c s.pending s t

/-- Command i ends with the status c, has emptied PENDING, and changes nothing else but CAUSE and FAULTCMD
(41_emsa.md R93). -/
def RaisesAndEmpties (i : Instr) (c : Status) (s : State) : Prop :=
  ∃ t, exec i s = .next t ∧ ErrorEntry (encode i) c [] s t

/-- An EMSA command ended OK with the bytes bs at a, their length in EMSA_OUTLEN and PENDING as given, and
nothing else changed. -/
def WroteOut (a : Nat) (bs pending : List Byte) (s t : State) : Prop :=
  Responds .ok s t ∧ Stores a bs s t ∧ t.emsaOutLen.toNat = bs.length ∧ t.pending = pending ∧ SameRegs s t ∧
    SameError s t ∧ SameGf s t ∧ SameEmsaConfig s t ∧ t.emsaResult = s.emsaResult ∧ SameHashStores s t ∧ SamePorts s t

/-- The n bytes of BUF from a are bs (20_memory.md R42). -/
def Holds (s : State) (a : Nat) (bs : List Byte) : Prop :=
  ∀ i, i < bs.length → Memory.read s.buf (a + i) = bs[i]?

/-- Some byte of the n bytes from a is unwritten (R44). -/
def SomeUnwritten (s : State) (a n : Nat) : Prop := ∃ i, i < n ∧ Memory.read s.buf (a + i) = none

/-! ### The field and its tables, in the spec's own terms -/

/-- Entry x of the log-table as a number. -/
def logEntry (f : Field) (x : Nat) : Nat := ((f.tables.log[x]?).getD 0).toNat

/-- Entry i of the exp-table as a number. -/
def expEntry (f : Field) (i : Nat) : Nat := ((f.tables.exp[i]?).getD 0).toNat

/-- The conditions T1 to T5 on the provider's tables, with their length (R120, R121). -/
structure TablesValid (f : Field) : Prop where
  logLength : f.tables.log.length = f.q
  expLength : f.tables.exp.length = f.q
  t1 : ∀ x, 1 ≤ x → x < f.q → logEntry f x < f.ord
  t2 : ∀ i, i < f.ord → 1 ≤ expEntry f i ∧ expEntry f i < f.q
  t3Exp : ∀ x, 1 ≤ x → x < f.q → expEntry f (logEntry f x) = x
  t3Log : ∀ i, i < f.ord → logEntry f (expEntry f i) = i
  t4 : expEntry f 0 = 1
  t5 : expEntry f f.ord = 1

/-- A field instance exists, of a legal degree, and its tables are valid: the premise of every GF rule
(R121, 70_reset_and_hazards.md R233). -/
def FieldReady (s : State) : Prop :=
  s.frozen = true ∧ 1 ≤ s.field.m ∧ s.field.m ≤ 16 ∧ TablesValid s.field

/-- A field instance of a legal degree exists: all a rule that reads no table needs (R125). -/
def FieldLegal (s : State) : Prop := s.frozen = true ∧ 1 ≤ s.field.m ∧ s.field.m ≤ 16

/-- The register has been written since reset, so that reading it is defined (10_state.md R12). -/
def Written (s : State) (r : Reg) : Prop := s.xWritten[r.val] = true

/-- `reduce` as arithmetic: the low M bits plus the rest shifted down (R123, R124 (a)). -/
def foldOnce (f : Field) (d : Int) : Int := d % 2 ^ f.m + d / 2 ^ f.m

/-- `LOG[v]` of a register value, as a number. -/
def logOf (f : Field) (v : Word) : Int := logEntry f v.toNat

/-- `EXP[i]` of an index, as a number. -/
def expOf (f : Field) (i : Int) : Int := expEntry f i.toNat

/-- The undefined case of a z-tagged operand (R129). -/
def badZ (f : Field) (v : Word) : Option Fault := if f.q ≤ v.toNat then some .elementRange else none

/-- The undefined cases of an n-tagged operand, range before zero (R129). -/
def badN (f : Field) (v : Word) : Option Fault :=
  if f.q ≤ v.toNat then some .elementRange else if v = 0 then some .zeroOperand else none

/-- The undefined case of an r-tagged operand (R129). -/
def badR (f : Field) (v : Word) : Option Fault := if f.ord < v.toNat then some .logRange else none

/-- No undefined case: an l-tagged operand (R129). -/
def badL (_ : Field) (_ : Word) : Option Fault := none

/-- The undefined cases of two operands, the first before the second (R129). -/
def badPair (bad1 bad2 : Field → Word → Option Fault) (f : Field) (v w : Word) : Option Fault :=
  (bad1 f v).or (bad2 f w)

/-- What a field command with one source does: IllegalState without a field instance; the named fault on an
operand outside its tag's set; else the value in x[rd] and nothing else changed. `ready` is what the value
needs of the state. The operand register has been written (R12). -/
def UnaryRule (ready : State → Prop) (mk : Reg → Reg → Instr) (bad : Field → Word → Option Fault)
    (value : Field → Word → Int) : Prop :=
  ∀ rd rs1 s,
    (s.frozen = false → Raises (mk rd rs1) .illegalState s) ∧
    (s.frozen = true → Written s rs1 → ∀ e, bad s.field s.x[rs1.val] = some e →
      exec (mk rd rs1) s = .fault e) ∧
    (ready s → Written s rs1 → bad s.field s.x[rs1.val] = none →
      ∃ t, exec (mk rd rs1) s = .next t ∧ WritesOnly rd (BitVec.ofInt 32 (value s.field s.x[rs1.val])) s t)

/-- What a field command with two sources does; see `UnaryRule`. -/
def BinaryRule (ready : State → Prop) (mk : Reg → Reg → Reg → Instr) (bad : Field → Word → Word → Option Fault)
    (value : Field → Word → Word → Int) : Prop :=
  ∀ rd rs1 rs2 s,
    (s.frozen = false → Raises (mk rd rs1 rs2) .illegalState s) ∧
    (s.frozen = true → Written s rs1 → Written s rs2 → ∀ e, bad s.field s.x[rs1.val] s.x[rs2.val] = some e →
      exec (mk rd rs1 rs2) s = .fault e) ∧
    (ready s → Written s rs1 → Written s rs2 → bad s.field s.x[rs1.val] s.x[rs2.val] = none →
      ∃ t, exec (mk rd rs1 rs2) s = .next t ∧
        WritesOnly rd (BitVec.ofInt 32 (value s.field s.x[rs1.val] s.x[rs2.val])) s t)

/-! ### Control registers and reset -/

/-- A CSR other than CAUSE was written: it reads v, every other CSR reads as before, and nothing else
changed. -/
def CsrWritten (c : Csr) (v : Word) (s t : State) : Prop :=
  Responds .ok s t ∧ t.readCsr c = v ∧ (∀ c', c' ≠ c → t.readCsr c' = s.readCsr c') ∧ SameRegs s t ∧
    SameBuf s t ∧ t.frozen = s.frozen ∧ t.pending = s.pending ∧ SameHashStores s t ∧ SamePorts s t

/-- CAUSE and FAULTCMD were cleared (10_state.md R17), every other CSR reads as before, and nothing else
changed. -/
def ErrorCleared (s t : State) : Prop :=
  Responds .ok s t ∧ t.cause = 0 ∧ t.faultCmd = 0 ∧
    (∀ c, c ≠ .cause → c ≠ .faultCmd → t.readCsr c = s.readCsr c) ∧ SameRegs s t ∧
    SameBuf s t ∧ t.frozen = s.frozen ∧ t.pending = s.pending ∧ SameHashStores s t ∧ SamePorts s t

/-- The CSRs that a write may reach (10_state.md R15), CAUSE apart. -/
def plainWritable (c : Csr) : Bool :=
  c = .gfM ∨ c = .emsaMode ∨ c = .emsaExpect ∨ c = .emsaSrc ∨ c = .emsaLen ∨ c = .emsaDst ∨ c = .emsaBits ∨
    c = .emsaAux ∨ c = .emsaAuxLen

/-- The read-only CSRs as R84 lists them. -/
def listedReadOnly (c : Csr) : Bool :=
  c = .status ∨ c = .faultCmd ∨ c = .gfQ ∨ c = .gfOrd ∨ c = .emsaOutLen ∨ c = .emsaResult ∨ c = .emsaPendLen ∨
    c = .emsaIdLen ∨ c = .emsaNameLen ∨ c = .emsaHashLen

/-- The states that forbid the write of a CSR (R84). -/
def writeForbidden (c : Csr) (s : State) : Prop :=
  (c = .gfM ∧ s.frozen = true) ∨ ((c = .emsaMode ∨ c = .emsaExpect) ∧ s.pending ≠ [])

/-- What a write of value v to CSR number n does when the command is i (R84): IllegalCsr, IllegalState and
BadConfig in that order of test, else the write. `defined` says that the value is one (R12). -/
def CsrWriteRule (i : Instr) (n : BitVec 8) (v : Word) (defined : Prop) (s : State) : Prop :=
  (Csr.ofNumber n = none → Raises i .illegalCsr s) ∧
  ∀ c, Csr.ofNumber n = some c →
    (listedReadOnly c = true → Raises i .illegalCsr s) ∧
    (writeForbidden c s → Raises i .illegalState s) ∧
    (defined → c = .emsaMode → s.pending = [] → 1 < v.toNat → Raises i .badConfig s) ∧
    (defined → c = .cause → ∃ t, exec i s = .next t ∧ ErrorCleared s t) ∧
    (defined → plainWritable c = true → ¬writeForbidden c s → (c = .emsaMode → v.toNat ≤ 1) →
      ∃ t, exec i s = .next t ∧ CsrWritten c v s t)

/-- Every item of 10_state.md R10 is at its reset value (70_reset_and_hazards.md R231), an unwritten register
and an unwritten byte without a value. -/
def AtReset (t : State) : Prop :=
  (∀ r : Reg, ¬Written t r) ∧ (∀ a, Memory.read t.buf a = none) ∧ t.cause = 0 ∧ t.faultCmd = 0 ∧ t.gfM = 0 ∧
    t.frozen = false ∧ t.emsaMode = .hashed ∧ t.emsaExpect = 0 ∧ t.emsaSrc = 0 ∧ t.emsaLen = 0 ∧ t.emsaDst = 0 ∧
    t.emsaBits = 0 ∧ t.emsaAux = 0 ∧ t.emsaAuxLen = 0 ∧ t.emsaOutLen = 0 ∧ t.emsaResult = false ∧
    t.pending = [] ∧ t.hashId = [] ∧ t.hashName = []

/-! ### The padding engine -/

/-- An EMSA command ended OK and changed nothing but PENDING, now as given, and EMSA_RESULT, now as given. -/
def EmsaSets (pending : List Byte) (result : Bool) (s t : State) : Prop :=
  Responds .ok s t ∧ t.pending = pending ∧ t.emsaResult = result ∧ t.emsaOutLen = s.emsaOutLen ∧ SameRegs s t ∧
    SameBuf s t ∧ SameError s t ∧ SameGf s t ∧ SameEmsaConfig s t ∧ SameHashStores s t ∧ SamePorts s t

/-- An EMSA command ended OK and changed nothing but HASH_ID and HASH_NAME, now as given. -/
def StoresLoaded (hashId hashName : List Byte) (s t : State) : Prop :=
  Responds .ok s t ∧ t.hashId = hashId ∧ t.hashName = hashName ∧ t.pending = s.pending ∧ SameRegs s t ∧
    SameBuf s t ∧ SameError s t ∧ SameGf s t ∧ SameEmsaConfig s t ∧ SameEmsaResults s t ∧ SamePorts s t

/-- What EMSA.SETID and EMSA.SETNAME do (41_emsa.md R96, R97): the tests in order, then the load. -/
def LoadRule (i : Instr) (cap : Nat) (loaded : List Byte → State → State → Prop) (s : State) : Prop :=
  (s.pending ≠ [] → Raises i .illegalState s) ∧
  (s.pending = [] → 65536 < s.emsaSrc.toNat + s.emsaLen.toNat → Raises i .bufRange s) ∧
  (s.pending = [] → s.emsaSrc.toNat + s.emsaLen.toNat ≤ 65536 → cap < s.emsaLen.toNat → Raises i .capacity s) ∧
  (s.pending = [] → s.emsaSrc.toNat + s.emsaLen.toNat ≤ 65536 → s.emsaLen.toNat ≤ cap →
    SomeUnwritten s s.emsaSrc.toNat s.emsaLen.toNat → exec i s = .fault .unwrittenMemory) ∧
  (s.pending = [] → s.emsaSrc.toNat + s.emsaLen.toNat ≤ 65536 → s.emsaLen.toNat ≤ cap →
    ∀ bs, bs.length = s.emsaLen.toNat → Holds s s.emsaSrc.toNat bs → ∃ t, exec i s = .next t ∧ loaded bs s t)

/-- The block of R91 for a padding string of k bytes. -/
def blockOf (k : Nat) (hashId digest : List Byte) : List Byte :=
  [0x00, 0x01] ++ List.replicate k 0xFF ++ [0x00] ++ (hashId ++ digest)

/-! ### Families of commands -/

/-- The EMSA commands (30_encoding.md R63, opcodes 0x80 to 0x89). -/
def isEmsa : Instr → Bool
  | .emsaUpdate | .emsaRawdata | .emsaEncode | .emsaVerify | .emsaName | .emsaSetid | .emsaSetname => true
  | .li .. | .lih .. | .csrr .. | .csrw .. | .csrwi .. | .reset => false
  | .gfLog .. | .gfExp .. | .gfRed .. | .gfInit => false
  | .gfMul .. | .gfMulNnn .. | .gfMulLll .. | .gfMulRrr .. | .gfMulNrr .. | .gfMulRrn .. | .gfMulLnn ..
  | .gfMulRnn .. | .gfMulNrn .. | .gfMulZrz .. => false
  | .gfDiv .. | .gfDivNnn .. | .gfDivRnn .. | .gfDivRnr .. | .gfDivNrr .. | .gfDivZzr .. | .gfDivRrr .. => false
  | .gfSqr .. | .gfSqrLn .. | .gfSqrRr .. | .gfSqrt .. | .gfInv .. | .gfInvRn .. | .gfInvRr .. | .gfPow .. => false
  | .gfEnc .. | .gfDec .. => false

/-- The field commands that need a field instance (60_exceptions.md R206 (a)): opcodes 0x10 to 0x12 and 0x20
to 0x60. -/
def needsField : Instr → Bool
  | .gfLog .. | .gfExp .. | .gfRed .. => true
  | .gfMul .. | .gfMulNnn .. | .gfMulLll .. | .gfMulRrr .. | .gfMulNrr .. | .gfMulRrn .. | .gfMulLnn ..
  | .gfMulRnn .. | .gfMulNrn .. | .gfMulZrz .. => true
  | .gfDiv .. | .gfDivNnn .. | .gfDivRnn .. | .gfDivRnr .. | .gfDivNrr .. | .gfDivZzr .. | .gfDivRrr .. => true
  | .gfSqr .. | .gfSqrLn .. | .gfSqrRr .. | .gfSqrt .. | .gfInv .. | .gfInvRn .. | .gfInvRr .. | .gfPow .. => true
  | .li .. | .lih .. | .csrr .. | .csrw .. | .csrwi .. | .reset | .gfInit | .gfEnc .. | .gfDec .. => false
  | .emsaUpdate | .emsaRawdata | .emsaEncode | .emsaVerify | .emsaName | .emsaSetid | .emsaSetname => false

/-- The GF commands (00_scope.md R1, unit B): field commands, GF.INIT and the codec. -/
def isGf : Instr → Bool
  | .gfLog .. | .gfExp .. | .gfRed .. => true
  | .gfMul .. | .gfMulNnn .. | .gfMulLll .. | .gfMulRrr .. | .gfMulNrr .. | .gfMulRrn .. | .gfMulLnn ..
  | .gfMulRnn .. | .gfMulNrn .. | .gfMulZrz .. => true
  | .gfDiv .. | .gfDivNnn .. | .gfDivRnn .. | .gfDivRnr .. | .gfDivNrr .. | .gfDivZzr .. | .gfDivRrr .. => true
  | .gfSqr .. | .gfSqrLn .. | .gfSqrRr .. | .gfSqrt .. | .gfInv .. | .gfInvRn .. | .gfInvRr .. | .gfPow .. => true
  | .gfInit | .gfEnc .. | .gfDec .. => true
  | .li .. | .lih .. | .csrr .. | .csrw .. | .csrwi .. | .reset => false
  | .emsaUpdate | .emsaRawdata | .emsaEncode | .emsaVerify | .emsaName | .emsaSetid | .emsaSetname => false

/-- CSRW and CSRWI of CSR c. -/
def writesCsr (i : Instr) (c : Csr) : Prop :=
  match i with
  | .csrw n _ => Csr.ofNumber n = some c
  | .csrwi n _ => Csr.ofNumber n = some c
  | .li .. | .lih .. | .csrr .. | .reset | .gfInit | .gfEnc .. | .gfDec .. => False
  | .gfLog .. | .gfExp .. | .gfRed .. => False
  | .gfMul .. | .gfMulNnn .. | .gfMulLll .. | .gfMulRrr .. | .gfMulNrr .. | .gfMulRrn .. | .gfMulLnn ..
  | .gfMulRnn .. | .gfMulNrn .. | .gfMulZrz .. => False
  | .gfDiv .. | .gfDivNnn .. | .gfDivRnn .. | .gfDivRnr .. | .gfDivNrr .. | .gfDivZzr .. | .gfDivRrr .. => False
  | .gfSqr .. | .gfSqrLn .. | .gfSqrRr .. | .gfSqrt .. | .gfInv .. | .gfInvRn .. | .gfInvRr .. | .gfPow .. => False
  | .emsaUpdate | .emsaRawdata | .emsaEncode | .emsaVerify | .emsaName | .emsaSetid | .emsaSetname => False

/-- State t with the GF unit's state and the X registers of u. -/
def withGfOf (u t : State) : State :=
  { t with gfM := u.gfM, frozen := u.frozen, x := u.x, xWritten := u.xWritten }

/-- State t with the EMSA unit's state of u. -/
def withEmsaOf (u t : State) : State :=
  { t with
    emsaMode := u.emsaMode, emsaExpect := u.emsaExpect, emsaSrc := u.emsaSrc, emsaLen := u.emsaLen,
    emsaDst := u.emsaDst, emsaBits := u.emsaBits, emsaAux := u.emsaAux, emsaAuxLen := u.emsaAuxLen,
    emsaOutLen := u.emsaOutLen, emsaResult := u.emsaResult, pending := u.pending, hashId := u.hashId,
    hashName := u.hashName }

/-- The complete list of the causes of IllegalState (60_exceptions.md R206). -/
def IllegalStateCause (i : Instr) (s : State) : Prop :=
  (needsField i = true ∧ s.frozen = false) ∨ (i = .gfInit ∧ s.frozen = true) ∨
    (writesCsr i .gfM ∧ s.frozen = true) ∨
    ((writesCsr i .emsaMode ∨ writesCsr i .emsaExpect) ∧ s.pending ≠ []) ∨
    ((i = .emsaSetid ∨ i = .emsaSetname) ∧ s.pending ≠ [])

/-- The statuses but OK that a decoded command can end with (60_exceptions.md R215); IllegalCommand belongs to
the word, not to a decoded command. -/
def statusesOf (i : Instr) (s : State) : List Status :=
  match i with
  | .li .. | .lih .. | .reset => []
  | .csrr .. => [.illegalCsr]
  | .csrw .. | .csrwi .. => [.illegalCsr, .illegalState, .badConfig]
  | .gfInit => [.illegalState, .badConfig]
  | .gfLog .. | .gfExp .. | .gfRed .. => [.illegalState]
  | .gfMul .. | .gfMulNnn .. | .gfMulLll .. | .gfMulRrr .. | .gfMulNrr .. | .gfMulRrn .. | .gfMulLnn ..
  | .gfMulRnn .. | .gfMulNrn .. | .gfMulZrz .. => [.illegalState]
  | .gfDiv .. | .gfDivNnn .. | .gfDivRnn .. | .gfDivRnr .. | .gfDivNrr .. | .gfDivZzr .. | .gfDivRrr .. => [.illegalState]
  | .gfSqr .. | .gfSqrLn .. | .gfSqrRr .. | .gfSqrt .. | .gfInv .. | .gfInvRn .. | .gfInvRr .. | .gfPow .. => [.illegalState]
  | .gfEnc .. | .gfDec .. => [.bufRange]
  | .emsaUpdate => [.bufRange, .capacity]
  | .emsaSetid | .emsaSetname => [.illegalState, .bufRange, .capacity]
  | .emsaRawdata => if s.emsaMode = .raw then [.bufRange, .invalidArgument] else [.bufRange]
  | .emsaEncode => [.bufRange, .encodingFailure]
  | .emsaVerify | .emsaName => [.bufRange]

/-! ### The invariant -/

/-- What holds of the block in every state a run reaches: BUF in canonical form; CAUSE the code of a status,
and FAULTCMD 0 when CAUSE is (R17, R18, R201); a field instance has a legal degree (R125); each store
within its capacity (R29, R30); EMSA_OUTLEN no more than BUF holds (R25). -/
structure BlockInv (s : State) : Prop where
  bufWf : Memory.wf s.buf = true
  causeCode : s.cause.toNat ≤ 8
  causeClear : s.cause = 0 → s.faultCmd = 0
  degree : s.frozen = true → 1 ≤ s.gfM.toNat ∧ s.gfM.toNat ≤ 16
  pendingCap : s.pending.length ≤ s.pendingCap
  idCap : s.hashId.length ≤ Config.idCap
  nameCap : s.hashName.length ≤ Config.nameCap
  outLen : s.emsaOutLen.toNat ≤ Config.bufSize

/-! ### Hazards: a register read before it is written -/

/-- The CSR tests that CSRW makes before it reads its register pass (40_system.md R84). -/
def csrTestsPass (n : BitVec 8) (s : State) : Bool :=
  match Csr.ofNumber n with
  | none => false
  | some c => !c.readOnly && !s.csrLocked c

/-- The registers in l, if the field instance that is tested before they are read exists (R206 (a)). -/
def readsIfFrozen (s : State) (l : List Reg) : List Reg := if s.frozen then l else []

/-- The registers whose values a command reads in a state, after the tests that come first (R80). -/
def registersRead (s : State) : Instr → List Reg
  | .lih rd _ => [rd]
  | .csrw csr rs => if csrTestsPass csr s then [rs] else []
  | .gfLog _ rs1 | .gfExp _ rs1 | .gfRed _ rs1 => readsIfFrozen s [rs1]
  | .gfMul _ rs1 rs2 | .gfMulNnn _ rs1 rs2 | .gfMulLll _ rs1 rs2 | .gfMulRrr _ rs1 rs2
  | .gfMulNrr _ rs1 rs2 | .gfMulRrn _ rs1 rs2 | .gfMulLnn _ rs1 rs2 | .gfMulRnn _ rs1 rs2
  | .gfMulNrn _ rs1 rs2 | .gfMulZrz _ rs1 rs2 => readsIfFrozen s [rs1, rs2]
  | .gfDiv _ rs1 rs2 | .gfDivNnn _ rs1 rs2 | .gfDivRnn _ rs1 rs2 | .gfDivRnr _ rs1 rs2
  | .gfDivNrr _ rs1 rs2 | .gfDivZzr _ rs1 rs2 | .gfDivRrr _ rs1 rs2 => readsIfFrozen s [rs1, rs2]
  | .gfSqr _ rs1 | .gfSqrLn _ rs1 | .gfSqrRr _ rs1 | .gfSqrt _ rs1 => readsIfFrozen s [rs1]
  | .gfInv _ rs1 | .gfInvRn _ rs1 | .gfInvRr _ rs1 => readsIfFrozen s [rs1]
  | .gfPow _ rs1 rs2 => readsIfFrozen s [rs1, rs2]
  | .gfEnc _ rs1 rs2 => [rs1, rs2]
  | .gfDec _ rs1 => [rs1]
  | .li _ _ | .csrr _ _ | .csrwi _ _ | .reset | .gfInit => []
  | .emsaUpdate | .emsaRawdata | .emsaEncode | .emsaVerify | .emsaName | .emsaSetid | .emsaSetname => []

/-- undefined(UnwrittenRegister) of R12: the command reads a register not written since reset. -/
def readsUnwritten (s : State) (i : Instr) : Bool := (registersRead s i).any fun r => !s.xWritten[r.val]

/-- The same of any action of the host (20_memory.md R47). -/
def hazardOf (s : State) : HostAction → Bool
  | .command w =>
    match decode w with
    | .ok i => readsUnwritten s i
    | .error _ => false
  | .regRead r => !s.xWritten[r.val]
  | .memWrite _ _ | .memRead _ | .resetInput => false

/-- The next step reads a register that nothing has written. -/
def hazard (s : State) : Bool :=
  match s.inputs with
  | [] => false
  | a :: _ => hazardOf s a

/-- The next step reads no unwritten register and does not fault. -/
def stepSafe (s : State) : Bool :=
  !hazard s && match step s with
    | .next _ => true
    | .fault _ => false
    | .refused _ => false

/-- The next k steps are safe. A claim about the hardware that is to rest on no value the model chose for an
unwritten register takes this as a hypothesis (log entry 1). -/
def runSafe : Nat → State → Bool
  | 0, _ => true
  | k + 1, s => stepSafe s && match step s with
    | .next t => runSafe k t
    | .fault _ => false
    | .refused _ => false

/-- Two states that differ at most in the values of unwritten registers. -/
def AgreeOnWritten (s t : State) : Prop :=
  t = { s with x := t.x } ∧ ∀ r : Reg, s.xWritten[r.val] = true → t.x[r.val] = s.x[r.val]

/-- Two outcomes of the same kind, with related states or the same reason. -/
def SameOutcome (rel : State → State → Prop) : Result → Result → Prop
  | .next s, .next t => rel s t
  | .fault e, .fault e' => e = e'
  | .refused r, .refused r' => r = r'
  | _, _ => False

end Sys2Proof.Safety
end

