-- ==== Sys2Proof/Certificates/Slice0/Obligations.lean ====
section
/-! DEFINITION. The statements for the provers. Each cites the rules of spec/ that it formalises. -/

open Sys2Proof
open Sys2Proof.Machine
open Sys2Proof.Safety

/-- Decoding the word of any command gives the command back. Rests on 30_encoding.md R61, 30_encoding.md R63,
30_encoding.md R64. -/
def Obligations.EveryCommandDecodesFromItsWord : Prop :=
  ∀ i, decode (encode i) = .ok i

/-- A word that decodes to a command is the one word of that command. Rests on 30_encoding.md R61,
30_encoding.md R64, 30_encoding.md R66. The model's choices it names: log entry 10. -/
def Obligations.EveryLegalWordIsTheWordOfItsCommand : Prop :=
  ∀ w i, decode w = .ok i → encode i = w

/-- The decoder accepts exactly the words that match a row of the mask table, and at most one row matches.
Rests on 30_encoding.md R63, 30_encoding.md R64, 30_encoding.md R66. -/
def Obligations.DecoderAcceptsWhatTheMaskTableMatches : Prop :=
  ∀ w : Word,
    ((∃ i, decode w = .ok i) ↔ ∃ row ∈ commandTable, row.matches w = true) ∧
    ∀ row ∈ commandTable, ∀ row' ∈ commandTable, row.matches w = true → row'.matches w = true → row = row'

/-- Words that the spec writes out decode to the commands it names. Rests on 30_encoding.md R64, 40_system.md
R81, 40_system.md R83, 40_system.md R84, 40_system.md R85, 43_gf_multiply.md R141,
45_gf_square_inverse_power.md R180, 46_gf_codec.md R191, 41_emsa.md R101. -/
def Obligations.WordsWrittenOutInTheSpecDecode : Prop :=
  decode 0x00070101 = .ok (.li 1 7) ∧ decode 0x00120504 = .ok (.csrr 5 0x12) ∧
    decode 0x00220405 = .ok (.csrw 0x22 4) ∧ decode 0x08002506 = .ok (.csrwi 0x25 2048) ∧
    decode 0x00021320 = .ok (.gfMul 3 1 2) ∧ decode 0x00021360 = .ok (.gfPow 3 1 2) ∧
    decode 0x00021370 = .ok (.gfEnc 3 1 2) ∧ decode 0x00000082 = .ok .emsaEncode

/-- A step on a presented word executes the command it decodes to. Rests on 10_state.md R13, 20_memory.md R51,
40_system.md R80. -/
def Obligations.StepRunsTheDecodedCommand : Prop :=
  ∀ s w rest i, s.inputs = .command w :: rest → decode w = .ok i →
    step s = exec i { s with inputs := rest, index := s.index + 1 }

/-- A word that matches no row raises IllegalCommand and changes only CAUSE and FAULTCMD. Formalises R66,
R204. -/
def Obligations.IllegalWordRaisesIllegalCommand : Prop :=
  (∀ s w rest, s.inputs = .command w :: rest → (∀ row ∈ commandTable, row.matches w = false) →
    ∃ t, step s = .next t ∧
      ErrorEntry w .illegalCommand s.pending { s with inputs := rest, index := s.index + 1 } t) ∧
    ∀ w ∈ [0x00000000, 0xFFFFFFFF, 0x00100320, 0x00011240, 0x00000118], ∀ row ∈ commandTable,
      row.matches w = false

/-- A presented command takes its place, advances the index by 1 and answers exactly one status. Rests on
10_state.md R13, 60_exceptions.md R200, 60_exceptions.md R201. -/
def Obligations.EveryCommandAnswersOneStatusAndAdvancesTheIndex : Prop :=
  ∀ s w rest t, s.inputs = .command w :: rest → step s = .next t →
    t.inputs = rest ∧ t.index = s.index + 1 ∧ ∃ c : Status, Responds c s t ∧ c.code.toNat ≤ 8

/-- The host port writes and reads BUF and reads X; with no action the block is idle. Rests on 20_memory.md
R47, 60_exceptions.md R220. The model's choices it names: log entry 3. -/
def Obligations.HostPortActionsAndIdle : Prop :=
  ∀ s rest,
    (∀ a b, s.inputs = .memWrite a b :: rest → ∃ t, step s = .next t ∧ Stores a.toNat [b] s t ∧
      t.responses = s.responses ∧ SameRegs s t ∧ SameError s t ∧ SameGf s t ∧ SameEmsa s t ∧
      t.inputs = rest ∧ t.index = s.index ∧ t.params = s.params) ∧
    (∀ a b, s.inputs = .memRead a :: rest → Memory.read s.buf a.toNat = some b →
      step s = .next { s with inputs := rest, responses := s.responses ++ [.memData b] }) ∧
    (∀ a, s.inputs = .memRead a :: rest → Memory.read s.buf a.toNat = none → step s = .fault .unwrittenMemory) ∧
    (∀ r, s.inputs = .regRead r :: rest → Written s r →
      step s = .next { s with inputs := rest, responses := s.responses ++ [.regData s.x[r.val]] }) ∧
    (s.inputs = [] → step s = .next s)

/-- The reset input has the effect of RESET without a response. Rests on 10_state.md R13,
70_reset_and_hazards.md R230, 70_reset_and_hazards.md R231, 70_reset_and_hazards.md R232. The model's choices
it names: log entry 18. -/
def Obligations.ResetInputPutsEveryItemAtReset : Prop :=
  ∀ s rest, s.inputs = .resetInput :: rest →
    ∃ t, step s = .next t ∧ AtReset t ∧ t.responses = s.responses ∧ t.inputs = rest ∧ t.index = s.index ∧
      t.params = s.params ∧
      exec .reset { s with inputs := rest } = .next { t with responses := t.responses ++ [.status .ok] }

/-- A command ends with the statuses that R215 lists for it and no others. Formalises R215. -/
def Obligations.StatusesByCommand : Prop :=
  (∀ i s t c, exec i s = .next t → Responds c s t → c = .ok ∨ c ∈ statusesOf i s) ∧
    (∀ s w rest e, s.inputs = .command w :: rest → decode w = .error e →
      ∃ t, step s = .next t ∧ Responds .illegalCommand s t) ∧
    ∀ w : Word, w.toNat % 256 = 6 → ∃ n imm16, decode w = .ok (.csrwi n imm16)

/-- LI writes the zero-extended immediate and nothing else. Formalises R81. -/
def Obligations.LoadImmediateZeroExtends : Prop :=
  ∀ rd (imm16 : BitVec 16) s, ∃ t, exec (.li rd imm16) s = .next t ∧
    WritesOnly rd (BitVec.ofNat 32 imm16.toNat) s t

/-- LIH writes the immediate to bits 31:16 and keeps bits 15:0. Formalises R82. -/
def Obligations.LoadImmediateHighKeepsTheLowHalf : Prop :=
  ∀ rd (imm16 : BitVec 16) s, Written s rd → ∃ t, exec (.lih rd imm16) s = .next t ∧
    WritesOnly rd (BitVec.ofNat 32 (imm16.toNat * 65536 + s.x[rd.val].toNat % 65536)) s t

/-- CSRR writes the read value of a mapped CSR and raises IllegalCsr for an unmapped number. Formalises R83.
-/
def Obligations.CsrReadWritesTheReadValue : Prop :=
  ∀ rd n s,
    (Csr.ofNumber n = none → Raises (.csrr rd n) .illegalCsr s) ∧
    ∀ c, Csr.ofNumber n = some c → ∃ t, exec (.csrr rd n) s = .next t ∧ WritesOnly rd (s.readCsr c) s t

/-- The CSR numbers, access classes and read values are those of the map. Rests on 10_state.md R15,
10_state.md R16, 10_state.md R17, 10_state.md R18, 10_state.md R19, 10_state.md R21, 10_state.md R22,
10_state.md R23, 10_state.md R24, 10_state.md R25, 10_state.md R26, 10_state.md R27. The model's choices it
names: log entry 21. -/
def Obligations.CsrMapAndReadValues : Prop :=
  (∀ n c, Csr.ofNumber n = some c ↔ n = c.number) ∧
    (∀ c : Csr, c.readOnly = listedReadOnly c) ∧
    ∀ s : State,
      (s.readCsr .status).toNat = (if s.frozen then 1 else 0) + (if s.pending = [] then 0 else 2) ∧
      (s.frozen = true → s.gfM.toNat ≤ 16 →
        (s.readCsr .gfQ).toNat = 2 ^ s.gfM.toNat ∧ (s.readCsr .gfOrd).toNat = 2 ^ s.gfM.toNat - 1) ∧
      (s.frozen = false → s.readCsr .gfQ = 0 ∧ s.readCsr .gfOrd = 0) ∧
      s.readCsr .cause = s.cause ∧ s.readCsr .faultCmd = s.faultCmd ∧
      s.readCsr .gfM = s.gfM ∧ s.readCsr .emsaExpect = s.emsaExpect ∧
      s.readCsr .emsaSrc = s.emsaSrc ∧ s.readCsr .emsaLen = s.emsaLen ∧ s.readCsr .emsaDst = s.emsaDst ∧
      s.readCsr .emsaBits = s.emsaBits ∧ s.readCsr .emsaAux = s.emsaAux ∧ s.readCsr .emsaAuxLen = s.emsaAuxLen ∧
      s.readCsr .emsaOutLen = s.emsaOutLen ∧
      (s.readCsr .emsaMode).toNat = (if s.emsaMode = .raw then 1 else 0) ∧
      (s.readCsr .emsaResult).toNat = (if s.emsaResult then 1 else 0) ∧
      (s.readCsr .emsaPendLen).toNat = s.pending.length % 2 ^ 32 ∧
      (s.pending.length ≤ 2 ^ 32 - 1 → (s.readCsr .emsaPendLen).toNat = s.pending.length) ∧
      (s.hashId.length ≤ 64 → (s.readCsr .emsaIdLen).toNat = s.hashId.length) ∧
      (s.hashName.length ≤ 64 → (s.readCsr .emsaNameLen).toNat = s.hashName.length) ∧
      (s.readCsr .emsaHashLen).toNat = s.hashOutLen ∧ 1 ≤ s.hashOutLen ∧ s.hashOutLen ≤ 4096

/-- CSRW: IllegalCsr, IllegalState, BadConfig in that order, else the CSR holds the register's value.
Formalises R84. -/
def Obligations.CsrWriteFromRegister : Prop :=
  ∀ n rs s, CsrWriteRule (.csrw n rs) n s.x[rs.val] (Written s rs) s

/-- CSRWI does what CSRW does, with the zero-extended immediate and no register read. Formalises R85. -/
def Obligations.CsrWriteFromImmediate : Prop :=
  ∀ n (imm16 : BitVec 16) s, CsrWriteRule (.csrwi n imm16) n (BitVec.ofNat 32 imm16.toNat) True s

/-- RESET puts every item at its reset value and answers OK. Rests on 10_state.md R13, 40_system.md R86,
70_reset_and_hazards.md R231. The model's choices it names: log entry 19. -/
def Obligations.ResetCommandPutsEveryItemAtReset : Prop :=
  ∀ s, ∃ t, exec .reset s = .next t ∧ AtReset t ∧ Responds .ok s t ∧ SamePorts s t

/-- The state after reset holds the reset values, and every derived CSR reads 0 or HASH_OUT_LEN. Formalises
R231. -/
def Obligations.ResetStateIsAtReset : Prop :=
  AtReset State.reset ∧
    (∀ c ∈ [Csr.status, .gfQ, .gfOrd, .emsaPendLen, .emsaIdLen, .emsaNameLen], State.reset.readCsr c = 0) ∧
    (State.reset.readCsr .emsaHashLen).toNat = State.reset.hashOutLen

/-- GF.INIT sets FROZEN for a degree 1 to 16, once. Formalises R125. -/
def Obligations.InitConstructsTheFieldInstance : Prop :=
  ∀ s,
    (s.frozen = true → Raises .gfInit .illegalState s) ∧
    (s.frozen = false → (s.gfM.toNat < 1 ∨ 16 < s.gfM.toNat) → Raises .gfInit .badConfig s) ∧
    (s.frozen = false → 1 ≤ s.gfM.toNat → s.gfM.toNat ≤ 16 →
      ∃ t, exec .gfInit s = .next t ∧ Responds .ok s t ∧ t.frozen = true ∧ t.gfM = s.gfM ∧
        (s.params.tables.toList[s.gfM.toNat - 1]? = some t.field.tables ∧ t.field.m = s.gfM.toNat) ∧
        (t.readCsr .gfQ).toNat = 2 ^ s.gfM.toNat ∧ (t.readCsr .gfOrd).toNat = 2 ^ s.gfM.toNat - 1 ∧
        SameRegs s t ∧ SameBuf s t ∧ SameError s t ∧ SameEmsa s t ∧ SamePorts s t)

/-- GF.LOG, GF.EXP and GF.RED: IllegalState, the named fault, or the looked-up or reduced value. Formalises
R126, R127, R128. -/
def Obligations.PrimitiveLookups : Prop :=
  UnaryRule FieldReady .gfLog badN (fun f v => logOf f v) ∧
    UnaryRule FieldReady .gfExp badR (fun f v => expOf f v.toNat) ∧
    UnaryRule FieldLegal .gfRed badL (fun f v => foldOnce f v.toInt)

/-- GF.MUL, .NNN, .NRR, .NRN, .ZRZ: the element of the reduced sum of logarithms, zero routed first.
Formalises R141, R142, R145, R149, R150. -/
def Obligations.MultiplyGivingElements : Prop :=
  BinaryRule FieldReady .gfMul (badPair badZ badZ)
      (fun f v w => if v = 0 ∨ w = 0 then 0 else expOf f (foldOnce f (logOf f v + logOf f w))) ∧
    BinaryRule FieldReady .gfMulNnn (badPair badN badN)
      (fun f v w => expOf f (foldOnce f (logOf f v + logOf f w))) ∧
    BinaryRule FieldReady .gfMulNrr (badPair badR badR)
      (fun f v w => expOf f (foldOnce f (v.toNat + w.toNat))) ∧
    BinaryRule FieldReady .gfMulNrn (badPair badR badN)
      (fun f v w => expOf f (foldOnce f (v.toNat + logOf f w))) ∧
    BinaryRule FieldReady .gfMulZrz (badPair badR badZ)
      (fun f v w => if w = 0 then 0 else expOf f (foldOnce f (v.toNat + logOf f w)))

/-- GF.MUL.LLL, .RRR, .RRN, .LNN, .RNN: the sum of logarithms, plain or reduced once. Formalises R143, R144,
R146, R147, R148. -/
def Obligations.MultiplyGivingLogarithms : Prop :=
  BinaryRule (fun s => s.frozen = true) .gfMulLll (badPair badL badL) (fun _ v w => v.toNat + w.toNat) ∧
    BinaryRule FieldLegal .gfMulRrr (badPair badR badR) (fun f v w => foldOnce f (v.toNat + w.toNat)) ∧
    BinaryRule FieldReady .gfMulRrn (badPair badR badN) (fun f v w => foldOnce f (v.toNat + logOf f w)) ∧
    BinaryRule FieldReady .gfMulLnn (badPair badN badN) (fun f v w => logOf f v + logOf f w) ∧
    BinaryRule FieldReady .gfMulRnn (badPair badN badN) (fun f v w => foldOnce f (logOf f v + logOf f w))

/-- GF.DIV, .NNN, .NRR, .ZZR: the element of the reduced difference of logarithms, a zero dividend routed.
Formalises R161, R162, R165, R166. -/
def Obligations.DivideGivingElements : Prop :=
  BinaryRule FieldReady .gfDiv (badPair badZ badN)
      (fun f v w => if v = 0 then 0 else expOf f (foldOnce f (logOf f v - logOf f w))) ∧
    BinaryRule FieldReady .gfDivNnn (badPair badN badN)
      (fun f v w => expOf f (foldOnce f (logOf f v - logOf f w))) ∧
    BinaryRule FieldReady .gfDivNrr (badPair badR badR)
      (fun f v w => expOf f (foldOnce f ((v.toNat : Int) - w.toNat))) ∧
    BinaryRule FieldReady .gfDivZzr (badPair badZ badR)
      (fun f v w => if v = 0 then 0 else expOf f (foldOnce f (logOf f v - w.toNat)))

/-- GF.DIV.RNN, .RNR, .RRR: the difference of logarithms reduced once, and the range of each result.
Formalises R163, R164, R167. -/
def Obligations.DivideGivingLogarithms : Prop :=
  BinaryRule FieldReady .gfDivRnn (badPair badN badN) (fun f v w => foldOnce f (logOf f v - logOf f w)) ∧
    BinaryRule FieldReady .gfDivRnr (badPair badN badR) (fun f v w => foldOnce f (logOf f v - w.toNat)) ∧
    BinaryRule FieldLegal .gfDivRrr (badPair badR badR) (fun f v w => foldOnce f ((v.toNat : Int) - w.toNat)) ∧
    ∀ f : Field, 1 ≤ f.m → f.m ≤ 16 → TablesValid f → ∀ v w : Word,
      (badPair badN badN f v w = none →
        0 ≤ foldOnce f (logOf f v - logOf f w) ∧ foldOnce f (logOf f v - logOf f w) ≤ f.ord - 1) ∧
      (badPair badN badR f v w = none →
        -(f.ord : Int) ≤ logOf f v - w.toNat ∧ logOf f v - w.toNat ≤ f.ord - 1 ∧
        0 ≤ foldOnce f (logOf f v - w.toNat) ∧ foldOnce f (logOf f v - w.toNat) ≤ f.ord - 1) ∧
      (badPair badR badR f v w = none →
        0 ≤ foldOnce f ((v.toNat : Int) - w.toNat) ∧ foldOnce f ((v.toNat : Int) - w.toNat) ≤ f.ord)

/-- GF.SQR, .LN, .RR and GF.SQRT: the logarithm shifted left by 1, or by M - 1, and reduced once. Formalises
R171, R172, R173, R174. -/
def Obligations.SquareAndSquareRoot : Prop :=
  UnaryRule FieldReady .gfSqr badZ (fun f v => if v = 0 then 0 else expOf f (foldOnce f (2 * logOf f v))) ∧
    UnaryRule FieldReady .gfSqrLn badN (fun f v => 2 * logOf f v) ∧
    UnaryRule FieldLegal .gfSqrRr badR (fun f v => foldOnce f (2 * (v.toNat : Int))) ∧
    UnaryRule FieldReady .gfSqrt badZ
      (fun f v => if v = 0 then 0 else expOf f (foldOnce f (logOf f v * 2 ^ (f.m - 1))))

/-- GF.INV, .RN, .RR: ord minus the logarithm, looked up or not, with no reduction. Formalises R176, R177,
R178. -/
def Obligations.InverseCommands : Prop :=
  UnaryRule FieldReady .gfInv badN (fun f v => expOf f (f.ord - logOf f v)) ∧
    UnaryRule FieldReady .gfInvRn badN (fun f v => f.ord - logOf f v) ∧
    UnaryRule FieldLegal .gfInvRr badR (fun f v => (f.ord : Int) - v.toNat)

/-- GF.POW: the exact product of logarithm and signed exponent modulo ord, with the cases of 0. Formalises
R180. -/
def Obligations.PowerWithSignedExponent : Prop :=
  BinaryRule FieldReady .gfPow
      (fun f v w => (badZ f v).or (if v = 0 ∧ w.toInt < 0 then some .zeroToNegativePower else none))
      (fun f v w => if w.toInt = 0 then 1 else if v = 0 then 0 else expOf f (logOf f v * w.toInt % f.ord))

/-- The laws (a) to (f) of one reduction, for every legal degree and signed 32-bit value. Rests on
42_gf_field.md R123, 42_gf_field.md R124. -/
def Obligations.LawsOfReduce : Prop :=
  (∀ f : Field, 1 ≤ f.m → f.m ≤ 16 → ∀ d : Int, -2 ^ 31 ≤ d → d < 2 ^ 31 →
      d - f.reduce d = d / 2 ^ f.m * f.ord ∧ (f.ord : Int) ∣ d - f.reduce d ∧
      (0 ≤ d → d ≤ f.ord → f.reduce d = d) ∧
      ((f.q : Int) ≤ d → d ≤ 2 * f.ord → f.reduce d = d - f.ord ∧ 1 ≤ f.reduce d ∧ f.reduce d ≤ f.ord) ∧
      (-(f.ord : Int) ≤ d → d ≤ -1 → f.reduce d = d + f.ord ∧ 0 ≤ f.reduce d ∧ f.reduce d ≤ f.ord - 1) ∧
      (-(f.ord : Int) ≤ d → d ≤ 2 * f.ord →
        0 ≤ f.reduce d ∧ f.reduce d ≤ f.ord ∧ (f.reduce d = 0 ↔ d = 0 ∨ d = -(f.ord : Int)) ∧
        (f.reduce d = f.ord ↔ d = f.ord ∨ d = 2 * f.ord)) ∧
      ((f.q : Int) ≤ d → f.reduce d < d)) ∧
    ∀ f : Field, f.m = 4 → f.reduce 31 = 16 ∧ f.reduce (-16) = -1 ∧ u32 (f.reduce (-16)) = 0xFFFFFFFF

/-- With valid tables a field command's value is in its result tag's set, GF.RED's for -ord to 2*ord. Rests on
00_scope.md R8, 30_encoding.md R65, 42_gf_field.md R124, 42_gf_field.md R126, 42_gf_field.md R128,
43_gf_multiply.md R143, 43_gf_multiply.md R144, 43_gf_multiply.md R147, 44_gf_divide.md R163, 44_gf_divide.md
R164, 45_gf_square_inverse_power.md R175, 45_gf_square_inverse_power.md R177. -/
def Obligations.ResultsStayInTheirTagSets : Prop :=
  ∀ f : Field, 1 ≤ f.m → f.m ≤ 16 → TablesValid f → ∀ v w : Word, ∀ r : Int,
    (∀ e ∈ [f.mulValue v w, f.mulZrzValue v w, f.divValue v w, f.divZzrValue v w, f.sqrValue v, f.sqrtValue v,
        f.powValue v w], e = .ok r → 0 ≤ r ∧ r < f.q) ∧
    (∀ e ∈ [f.expValue v, f.mulNnnValue v w, f.mulNrrValue v w, f.mulNrnValue v w, f.divNnnValue v w,
        f.divNrrValue v w, f.invValue v], e = .ok r → 1 ≤ r ∧ r < f.q) ∧
    (∀ e ∈ [f.mulRrrValue v w, f.mulRrnValue v w, f.mulRnnValue v w, f.divRrrValue v w, f.sqrRrValue v,
        f.invRrValue v], e = .ok r → 0 ≤ r ∧ r ≤ f.ord) ∧
    (∀ e ∈ [f.logValue v, f.divRnnValue v w, f.divRnrValue v w], e = .ok r → 0 ≤ r ∧ r ≤ f.ord - 1) ∧
    (f.invRnValue v = .ok r → 1 ≤ r ∧ r ≤ f.ord) ∧
    (-(f.ord : Int) ≤ v.toInt → v.toInt ≤ 2 * f.ord → f.redValue v = .ok r → 0 ≤ r ∧ r ≤ f.ord) ∧
    (∀ e ∈ [f.mulLnnValue v w, f.sqrLnValue v], e = .ok r → 0 ≤ r ∧ r ≤ 2 * f.ord - 2) ∧
    (f.mulLllValue v w = .ok r → r = v.toNat + w.toNat ∧ (v.toNat < 2 ^ 31 → w.toNat < 2 ^ 31 → r < 2 ^ 32))

/-- With valid tables multiplication is associative and commutative, 1 is the unit, inverses and roots are
right. Formalises R130. -/
def Obligations.FieldLawsOfMultiplication : Prop :=
  ∀ f : Field, 1 ≤ f.m → f.m ≤ 16 → TablesValid f →
    ∀ x y z : Word, x.toNat < f.q → y.toNat < f.q → z.toNat < f.q →
      (∃ p q r : Int, f.mulValue y z = .ok p ∧ f.mulValue x y = .ok q ∧
        f.mulValue x (u32 p) = .ok r ∧ f.mulValue (u32 q) z = .ok r) ∧
      f.mulValue x y = f.mulValue y x ∧ f.mulValue x 1 = .ok x.toNat ∧ f.mulValue x 0 = .ok 0 ∧
      (x ≠ 0 → ∃ p : Int, f.invValue x = .ok p ∧ f.mulValue x (u32 p) = .ok 1) ∧
      f.sqrValue x = f.mulValue x x ∧
      (∃ p : Int, f.sqrValue x = .ok p ∧ f.sqrtValue (u32 p) = .ok x.toNat) ∧
      (x ≠ 0 → logEntry f x.toNat < f.ord ∧ ∀ i, i < f.ord → (expEntry f i = x.toNat ↔ i = logEntry f x.toNat))

/-- The tagged multiplies agree with one another through GF.LOG, GF.RED and GF.EXP. Rests on 43_gf_multiply.md
R152. -/
def Obligations.RelationsInsideTheMultiplyFamily : Prop :=
  ∀ f : Field, 1 ≤ f.m → f.m ≤ 16 → TablesValid f → ∀ x y a : Word, x ≠ 0 → y ≠ 0 → x.toNat < f.q → y.toNat < f.q →
    a.toNat ≤ f.ord →
      (∃ n r l rr lx ly : Int, f.mulNnnValue x y = .ok n ∧ f.mulRnnValue x y = .ok r ∧ f.expValue (u32 r) = .ok n ∧
        f.mulLnnValue x y = .ok l ∧ f.redValue (u32 l) = .ok rr ∧ f.expValue (u32 rr) = .ok n ∧
        f.logValue x = .ok lx ∧ f.logValue y = .ok ly ∧ f.mulRrrValue (u32 lx) (u32 ly) = .ok r ∧
        f.mulValue x y = .ok n) ∧
      (∃ n ly : Int, f.mulNrnValue a y = .ok n ∧ f.logValue y = .ok ly ∧ f.mulNrrValue a (u32 ly) = .ok n)

/-- Division undoes multiplication and agrees with the inverse and the logarithmic forms. Rests on
44_gf_divide.md R168. -/
def Obligations.RelationsOfDivision : Prop :=
  ∀ f : Field, 1 ≤ f.m → f.m ≤ 16 → TablesValid f → ∀ x y : Word, y ≠ 0 → x.toNat < f.q → y.toNat < f.q →
    (∃ d : Int, f.divValue x y = .ok d ∧ f.mulValue (u32 d) y = .ok x.toNat) ∧
    f.divNnnValue 1 y = f.invValue y ∧
    (x ≠ 0 → ∃ n r i lx ly : Int, f.divNnnValue x y = .ok n ∧ f.divRnnValue x y = .ok r ∧
      f.expValue (u32 r) = .ok n ∧ f.invValue y = .ok i ∧ f.mulNnnValue x (u32 i) = .ok n ∧
      f.logValue x = .ok lx ∧ f.logValue y = .ok ly ∧ f.divRrrValue (u32 lx) (u32 ly) = .ok r)

/-- The inverse, square and root forms agree with one another. Formalises R179. -/
def Obligations.RelationsOfInverseSquareAndRoot : Prop :=
  ∀ f : Field, 1 ≤ f.m → f.m ≤ 16 → TablesValid f → ∀ x a : Word, x.toNat < f.q → a.toNat ≤ f.ord →
    (x ≠ 0 → ∃ i r lx rr sq s : Int, f.invValue x = .ok i ∧ f.invRnValue x = .ok r ∧ f.expValue (u32 r) = .ok i ∧
      f.logValue x = .ok lx ∧ f.invRrValue (u32 lx) = .ok rr ∧ f.expValue (u32 rr) = .ok i ∧
      f.invValue (u32 i) = .ok x.toNat ∧ f.sqrValue x = .ok sq ∧ f.sqrRrValue (u32 lx) = .ok s ∧
      f.expValue (u32 s) = .ok sq) ∧
    (∃ b : Int, f.invRrValue a = .ok b ∧ f.invRrValue (u32 b) = .ok a.toNat) ∧
    (∃ p q : Int, f.sqrValue x = .ok p ∧ f.sqrtValue (u32 p) = .ok x.toNat ∧
      f.sqrtValue x = .ok q ∧ f.sqrValue (u32 q) = .ok x.toNat)

/-- GF.POW with exponents 1, 2, -1 and 2^(M-1) is x, the square, the inverse, the root; it is periodic and
additive. Formalises R181. -/
def Obligations.RelationsOfPower : Prop :=
  ∀ f : Field, 1 ≤ f.m → f.m ≤ 16 → TablesValid f → ∀ x i j : Word, x.toNat < f.q →
    f.powValue x 1 = .ok x.toNat ∧ f.powValue x 2 = f.sqrValue x ∧
    (x ≠ 0 → f.powValue x (u32 (-1)) = f.invValue x) ∧
    (x ≠ 0 → i.toInt ≠ 0 → j.toInt ≠ 0 → (∃ k : Int, j.toInt = i.toInt + f.ord * k) →
      f.powValue x j = f.powValue x i) ∧
    (x ≠ 0 → -2 ^ 31 ≤ i.toInt + j.toInt → i.toInt + j.toInt < 2 ^ 31 → ∃ p q r : Int,
      f.powValue x i = .ok p ∧ f.powValue x j = .ok q ∧ f.powValue x (u32 (i.toInt + j.toInt)) = .ok r ∧
      f.mulValue (u32 p) (u32 q) = .ok r) ∧
    (2 ≤ f.m → f.powValue x (u32 (2 ^ (f.m - 1))) = f.sqrtValue x)

/-- GF.ENC stores bits 15:8 and 7:0 at a and a + 1 and writes 2 to rd, or raises BufRange. Formalises R191. -/
def Obligations.EncodeStoresTwoBytesBigEndian : Prop :=
  ∀ rd rs1 rs2 s, Written s rs1 → Written s rs2 →
    (65536 < s.x[rs2.val].toNat + 2 → Raises (.gfEnc rd rs1 rs2) .bufRange s) ∧
    (s.x[rs2.val].toNat + 2 ≤ 65536 → ∃ t, exec (.gfEnc rd rs1 rs2) s = .next t ∧ Responds .ok s t ∧
      Stores s.x[rs2.val].toNat
        [BitVec.ofNat 8 (s.x[rs1.val].toNat / 256), BitVec.ofNat 8 s.x[rs1.val].toNat] s t ∧
      SetsReg rd 2 s t ∧ SameError s t ∧ SameGf s t ∧ SameEmsa s t ∧ SamePorts s t)

/-- GF.DEC loads 256*BUF[a] + BUF[a+1], zero-extended, or raises BufRange, or faults on an unwritten byte.
Formalises R192. -/
def Obligations.DecodeLoadsTwoBytesBigEndian : Prop :=
  ∀ rd rs1 s, Written s rs1 →
    (65536 < s.x[rs1.val].toNat + 2 → Raises (.gfDec rd rs1) .bufRange s) ∧
    (s.x[rs1.val].toNat + 2 ≤ 65536 → SomeUnwritten s s.x[rs1.val].toNat 2 →
      exec (.gfDec rd rs1) s = .fault .unwrittenMemory) ∧
    (s.x[rs1.val].toNat + 2 ≤ 65536 → ∀ b0 b1, Holds s s.x[rs1.val].toNat [b0, b1] →
      ∃ t, exec (.gfDec rd rs1) s = .next t ∧ WritesOnly rd (BitVec.ofNat 32 (256 * b0.toNat + b1.toNat)) s t)

/-- Encoding then decoding gives the value modulo 65536, and decoding then encoding copies the two bytes.
Formalises R194. -/
def Obligations.CodecRoundTrip : Prop :=
  (∀ rd1 rs1 rs2 rd2 s, Written s rs1 → Written s rs2 → s.x[rs2.val].toNat + 2 ≤ 65536 → rd1 ≠ rs2 →
      ∃ t u, exec (.gfEnc rd1 rs1 rs2) s = .next t ∧ exec (.gfDec rd2 rs2) t = .next u ∧
        u.x[rd2.val].toNat = s.x[rs1.val].toNat % 65536) ∧
    ∀ rd1 rd2 rs1 rs2 s b0 b1, Written s rs1 → Written s rs2 → s.x[rs1.val].toNat + 2 ≤ 65536 →
      Holds s s.x[rs1.val].toNat [b0, b1] → rd1 ≠ rs2 → s.x[rs2.val].toNat + 2 ≤ 65536 →
      ∃ t u, exec (.gfDec rd1 rs1) s = .next t ∧ exec (.gfEnc rd2 rd1 rs2) t = .next u ∧
        Stores s.x[rs2.val].toNat [b0, b1] s u

/-- EmsaEncode fails below 8 padding bytes and else is 00 01 FF.. 00 hash_id digest of exactly output_len
bytes. Formalises R91. -/
def Obligations.EncodedBlockLayout : Prop :=
  ∀ hashId digest bits,
    (((bits + 7) / 8 : Nat) - 3 - ((hashId.length + digest.length : Nat) : Int) < 8 →
      emsaEncode hashId digest bits = none) ∧
    ∀ k : Nat, ((bits + 7) / 8 : Nat) - 3 - ((hashId.length + digest.length : Nat) : Int) = k → 8 ≤ k →
      ∃ block, emsaEncode hashId digest bits = some block ∧ block = blockOf k hashId digest ∧
        block.length = (bits + 7) / 8 ∧ block[0]? = some 0x00 ∧ block[1]? = some 0x01 ∧
        (∀ o, 2 ≤ o → o ≤ k + 1 → block[o]? = some 0xFF) ∧ block[k + 2]? = some 0x00 ∧
        block.drop (k + 3) = hashId ++ digest

/-- EMSA.UPDATE appends the bytes, or raises BufRange or Capacity, or faults on an unwritten byte. Formalises
R95. -/
def Obligations.UpdateAppendsToPending : Prop :=
  ∀ s,
    (65536 < s.emsaSrc.toNat + s.emsaLen.toNat → Raises .emsaUpdate .bufRange s) ∧
    (s.emsaSrc.toNat + s.emsaLen.toNat ≤ 65536 →
      ((if s.emsaMode = .raw then 4096 else 4294967295) < s.pending.length + s.emsaLen.toNat →
        Raises .emsaUpdate .capacity s) ∧
      (s.pending.length + s.emsaLen.toNat ≤ (if s.emsaMode = .raw then 4096 else 4294967295) →
        (SomeUnwritten s s.emsaSrc.toNat s.emsaLen.toNat → exec .emsaUpdate s = .fault .unwrittenMemory) ∧
        ∀ bs, bs.length = s.emsaLen.toNat → Holds s s.emsaSrc.toNat bs →
          ∃ t, exec .emsaUpdate s = .next t ∧ EmsaSets (s.pending ++ bs) s.emsaResult s t))

/-- EMSA.SETID and EMSA.SETNAME load up to 64 bytes while PENDING is empty. Formalises R96, R97. -/
def Obligations.IdAndNameStoresAreLoaded : Prop :=
  ∀ s, LoadRule .emsaSetid 64 (fun bs s t => StoresLoaded bs s.hashName s t) s ∧
    LoadRule .emsaSetname 64 (fun bs s t => StoresLoaded s.hashId bs s t) s

/-- EMSA.RAWDATA in HASHED mode writes Hash(PENDING), empties PENDING, or raises BufRange. Formalises R98. -/
def Obligations.RawdataInHashedModeWritesTheDigest : Prop :=
  ∀ s, s.emsaMode = .hashed →
    (65536 < s.emsaDst.toNat + s.hashOutLen → Raises .emsaRawdata .bufRange s) ∧
    (s.emsaDst.toNat + s.hashOutLen ≤ 65536 → ∃ t, exec .emsaRawdata s = .next t ∧
      (s.hash s.pending).length = s.hashOutLen ∧ WroteOut s.emsaDst.toNat (s.hash s.pending) [] s t)

/-- EMSA.RAWDATA in RAW mode writes PENDING and empties it, or raises BufRange or InvalidArgument. Formalises
R99. -/
def Obligations.RawdataInRawModeWritesTheBuffer : Prop :=
  ∀ s, s.emsaMode = .raw →
    (65536 < s.emsaDst.toNat + s.pending.length → Raises .emsaRawdata .bufRange s) ∧
    (s.emsaDst.toNat + s.pending.length ≤ 65536 →
      (s.emsaExpect ≠ 0 → s.pending.length ≠ s.emsaExpect.toNat →
        RaisesAndEmpties .emsaRawdata .invalidArgument s) ∧
      (s.emsaExpect = 0 ∨ s.pending.length = s.emsaExpect.toNat →
        ∃ t, exec .emsaRawdata s = .next t ∧ WroteOut s.emsaDst.toNat s.pending [] s t))

/-- EMSA.ENCODE writes the encoded block, or raises BufRange or EncodingFailure. Formalises R101. -/
def Obligations.EncodeWritesTheBlock : Prop :=
  ∀ s,
    (65536 < s.emsaSrc.toNat + s.emsaLen.toNat ∨ 65536 < s.emsaDst.toNat + (s.emsaBits.toNat + 7) / 8 →
      Raises .emsaEncode .bufRange s) ∧
    (s.emsaSrc.toNat + s.emsaLen.toNat ≤ 65536 → s.emsaDst.toNat + (s.emsaBits.toNat + 7) / 8 ≤ 65536 →
      (SomeUnwritten s s.emsaSrc.toNat s.emsaLen.toNat → exec .emsaEncode s = .fault .unwrittenMemory) ∧
      ∀ digest, digest.length = s.emsaLen.toNat → Holds s s.emsaSrc.toNat digest →
        ((s.emsaBits.toNat + 7) / 8 < s.hashId.length + s.emsaLen.toNat + 11 →
          RaisesAndEmpties .emsaEncode .encodingFailure s) ∧
        (s.hashId.length + s.emsaLen.toNat + 11 ≤ (s.emsaBits.toNat + 7) / 8 →
          ∃ t, exec .emsaEncode s = .next t ∧
            WroteOut s.emsaDst.toNat
              (blockOf ((s.emsaBits.toNat + 7) / 8 - 3 - (s.hashId.length + s.emsaLen.toNat)) s.hashId digest)
              [] s t))

/-- EMSA.VERIFY sets EMSA_RESULT to exact equality with the rebuilt block and raises nothing but BufRange.
Formalises R104. -/
def Obligations.VerifyComparesWithTheRebuiltBlock : Prop :=
  ∀ s,
    (65536 < s.emsaAux.toNat + s.emsaAuxLen.toNat ∨ 65536 < s.emsaSrc.toNat + s.emsaLen.toNat →
      Raises .emsaVerify .bufRange s) ∧
    (s.emsaAux.toNat + s.emsaAuxLen.toNat ≤ 65536 → s.emsaSrc.toNat + s.emsaLen.toNat ≤ 65536 →
      (SomeUnwritten s s.emsaAux.toNat s.emsaAuxLen.toNat ∨ SomeUnwritten s s.emsaSrc.toNat s.emsaLen.toNat →
        exec .emsaVerify s = .fault .unwrittenMemory) ∧
      ∀ coded raw, coded.length = s.emsaAuxLen.toNat → Holds s s.emsaAux.toNat coded →
        raw.length = s.emsaLen.toNat → Holds s s.emsaSrc.toNat raw →
        ∃ t result, exec .emsaVerify s = .next t ∧ EmsaSets [] result s t ∧
          (result = true ↔ s.hashId.length + raw.length + 11 ≤ (s.emsaBits.toNat + 7) / 8 ∧
            coded = blockOf ((s.emsaBits.toNat + 7) / 8 - 3 - (s.hashId.length + raw.length)) s.hashId raw))

/-- EMSA.NAME writes the ASCII scheme identifier, or raises BufRange. Formalises R107. -/
def Obligations.NameWritesTheSchemeIdentifier : Prop :=
  ∀ s name, name = (
      if s.emsaMode = .hashed then [0x45, 0x4D, 0x53, 0x41, 0x33, 0x28] ++ s.hashName ++ [0x29]
      else if s.hashName = [] then [0x45, 0x4D, 0x53, 0x41, 0x33, 0x28, 0x52, 0x61, 0x77, 0x29]
      else [0x45, 0x4D, 0x53, 0x41, 0x33, 0x28, 0x52, 0x61, 0x77, 0x2C] ++ s.hashName ++ [0x29]) →
    (65536 < s.emsaDst.toNat + name.length → Raises .emsaName .bufRange s) ∧
    (s.emsaDst.toNat + name.length ≤ 65536 →
      ∃ t, exec .emsaName s = .next t ∧ WroteOut s.emsaDst.toNat name s.pending s t)

/-- EMSA.VERIFY accepts the encoded block, rejects it with any one byte changed; a 512-bit key cannot hold a
64-byte digest. Formalises R106. -/
def Obligations.VerifyAcceptsTheBlockAndRejectsEveryFlip : Prop :=
  (∀ s raw block, raw.length = s.emsaLen.toNat → Holds s s.emsaSrc.toNat raw →
      s.emsaSrc.toNat + s.emsaLen.toNat ≤ 65536 → s.emsaAux.toNat + s.emsaAuxLen.toNat ≤ 65536 →
      emsaEncode s.hashId raw s.emsaBits.toNat = some block → block.length = s.emsaAuxLen.toNat →
      (Holds s s.emsaAux.toNat block → ∃ t, exec .emsaVerify s = .next t ∧ t.emsaResult = true) ∧
      (∀ i b, i < block.length → block[i]? ≠ some b → Holds s s.emsaAux.toNat (block.set i b) →
        ∃ t, exec .emsaVerify s = .next t ∧ t.emsaResult = false)) ∧
    ∀ s digest, digest.length = s.emsaLen.toNat → Holds s s.emsaSrc.toNat digest →
      s.emsaSrc.toNat + s.emsaLen.toNat ≤ 65536 → s.emsaDst.toNat + 64 ≤ 65536 → s.emsaBits = 512 →
      s.emsaLen = 64 → RaisesAndEmpties .emsaEncode .encodingFailure s

/-- After EMSA.ENCODE, EMSA.VERIFY of the bytes it wrote answers true. Rests on 41_emsa.md R101, 41_emsa.md
R104, 41_emsa.md R106. -/
def Obligations.EncodeThenVerifyAccepts : Prop :=
  ∀ s t, exec .emsaEncode s = .next t → Responds .ok s t →
    s.emsaAux = s.emsaDst → s.emsaAuxLen.toNat = (s.emsaBits.toNat + 7) / 8 →
    (s.emsaSrc.toNat + s.emsaLen.toNat ≤ s.emsaDst.toNat ∨
      s.emsaDst.toNat + (s.emsaBits.toNat + 7) / 8 ≤ s.emsaSrc.toNat) →
    ∃ u, exec .emsaVerify t = .next u ∧ Responds .ok t u ∧ u.emsaResult = true

/-- The all-bytes comparator computes exactly the equality that EMSA.VERIFY reports. Formalises R105. The
model's choices it names: log entry 12. -/
def Obligations.ComparatorComputesEquality : Prop :=
  (∀ coded block, comparator coded block = true ↔ coded = block) ∧
    ∀ hashId raw coded bits block, emsaEncode hashId raw bits = some block →
      verifyValue hashId raw coded bits = comparator coded block

/-- The machine's invariant holds in the reset state. Rests on 70_reset_and_hazards.md R231, 10_state.md R29,
10_state.md R30. -/
def Obligations.InvariantHoldsAtReset : Prop :=
  BlockInv State.reset

/-- Every step keeps BUF canonical, CAUSE a status code, the degree legal and the stores within their
capacities. Rests on 10_state.md R17, 10_state.md R20, 10_state.md R22, 10_state.md R29, 10_state.md R30,
20_memory.md R41, 20_memory.md R43, 42_gf_field.md R125, 60_exceptions.md R209. -/
def Obligations.EveryStepKeepsTheInvariant : Prop :=
  ∀ s t, BlockInv s → step s = .next t → BlockInv t

/-- A command that ends with an error writes the response, CAUSE, FAULTCMD and nothing else but PENDING where
R93 says so. Formalises R203. -/
def Obligations.ErrorsArePrecise : Prop :=
  ∀ i s t c, c ≠ .ok → exec i s = .next t → Responds c s t →
    ErrorEntry (encode i) c
      (if (i = .emsaRawdata ∧ c = .invalidArgument) ∨ (i = .emsaEncode ∧ c = .encodingFailure) then []
        else s.pending) s t

/-- A command that ends OK leaves CAUSE and FAULTCMD, unless it is RESET or a write of CAUSE, which clear
both. Rests on 10_state.md R17, 10_state.md R18, 60_exceptions.md R200, 60_exceptions.md R216. -/
def Obligations.OkLeavesTheErrorRegisters : Prop :=
  ∀ i s t, exec i s = .next t → Responds .ok s t →
    (i ≠ .reset → ¬writesCsr i .cause → SameError s t) ∧
    (i = .reset ∨ writesCsr i .cause → t.cause = 0 ∧ t.faultCmd = 0)

/-- FROZEN is set by GF.INIT alone and cleared by reset alone, and while it is set GF_M and the tables stay.
Formalises R20. -/
def Obligations.OnlyResetDestroysTheFieldInstance : Prop :=
  (∀ s t, step s = .next t → s.frozen = true →
      (∀ rest, s.inputs ≠ .resetInput :: rest ∧ s.inputs ≠ .command (encode .reset) :: rest) →
      t.frozen = true ∧ t.gfM = s.gfM ∧ t.field = s.field) ∧
    (∀ s t, step s = .next t → s.frozen = false → t.frozen = true →
      ∃ rest, s.inputs = .command (encode .gfInit) :: rest) ∧
    (∀ i s, needsField i = true → s.frozen = false → Raises i .illegalState s) ∧
    (∀ rd rs1 rs2 s t, exec (.gfEnc rd rs1 rs2) s = .next t ∨ exec (.gfDec rd rs1) s = .next t →
      ¬Responds .illegalState s t) ∧
    State.reset.frozen = false ∧ ∀ s : State, (s.readCsr .status).toNat % 2 = if s.frozen then 1 else 0

/-- A command answers IllegalState exactly in the cases (a) to (e). Formalises R206. -/
def Obligations.IllegalStateHasExactlyTheListedCauses : Prop :=
  ∀ i s, (∃ t, exec i s = .next t ∧ Responds .illegalState s t) ↔ IllegalStateCause i s

/-- No EMSA command reads or writes GF state or X, and no GF command reads or writes EMSA state. Rests on
00_scope.md R2, 10_state.md R11. -/
def Obligations.TheTwoUnitsAreIndependent : Prop :=
  (∀ i s u, isEmsa i = true →
      (∀ t, exec i s = .next t → SameGf s t ∧ SameRegs s t) ∧
      SameOutcome (fun t t' => t' = withGfOf u t) (exec i s) (exec i (withGfOf u s))) ∧
    ∀ i s u, isGf i = true →
      (∀ t, exec i s = .next t → SameEmsa s t) ∧
      SameOutcome (fun t t' => t' = withEmsaOf u t) (exec i s) (exec i (withEmsaOf u s))

/-- Each store, EMSA register, GF_M and BUF is changed only by the commands that R19 to R31 and R49 name, the
parameters by none. Rests on 10_state.md R19, 10_state.md R22, 10_state.md R24, 10_state.md R25, 10_state.md
R26, 10_state.md R29, 10_state.md R30, 10_state.md R31, 20_memory.md R49. -/
def Obligations.EachStoreHasItsWriters : Prop :=
  (∀ i s t, exec i s = .next t →
      (t.pending ≠ s.pending → i ∈ [.emsaUpdate, .emsaRawdata, .emsaEncode, .emsaVerify, .reset]) ∧
      (t.hashId ≠ s.hashId → i ∈ [.emsaSetid, .reset]) ∧ (t.hashName ≠ s.hashName → i ∈ [.emsaSetname, .reset]) ∧
      (t.emsaOutLen ≠ s.emsaOutLen → i ∈ [.emsaRawdata, .emsaEncode, .emsaName, .reset]) ∧
      (t.emsaResult ≠ s.emsaResult → i ∈ [.emsaVerify, .reset]) ∧
      (t.emsaSrc ≠ s.emsaSrc → i = .reset ∨ writesCsr i .emsaSrc) ∧
      (t.emsaLen ≠ s.emsaLen → i = .reset ∨ writesCsr i .emsaLen) ∧
      (t.emsaDst ≠ s.emsaDst → i = .reset ∨ writesCsr i .emsaDst) ∧
      (t.emsaBits ≠ s.emsaBits → i = .reset ∨ writesCsr i .emsaBits) ∧
      (t.emsaAux ≠ s.emsaAux → i = .reset ∨ writesCsr i .emsaAux) ∧
      (t.emsaAuxLen ≠ s.emsaAuxLen → i = .reset ∨ writesCsr i .emsaAuxLen) ∧
      (t.emsaMode ≠ s.emsaMode → i = .reset ∨ writesCsr i .emsaMode) ∧
      (t.emsaExpect ≠ s.emsaExpect → i = .reset ∨ writesCsr i .emsaExpect) ∧
      (t.gfM ≠ s.gfM → i = .reset ∨ writesCsr i .gfM) ∧
      (¬SameBuf s t → i ∈ [.emsaRawdata, .emsaEncode, .emsaName, .reset] ∨ ∃ rd rs1 rs2, i = .gfEnc rd rs1 rs2)) ∧
    ∀ s t, step s = .next t → t.params = s.params

/-- While no unwritten register is read, the values the model gives unwritten registers cannot show. Rests on
10_state.md R12, 70_reset_and_hazards.md R235. The model's choices it names: log entry 1. -/
def Obligations.UnwrittenValuesCannotMatter : Prop :=
  ∀ s t, AgreeOnWritten s t → hazard s = false →
    SameOutcome AgreeOnWritten (step s) (step t)

/-- The written marks are bookkeeping: they change nothing a command does. Rests on 10_state.md R12. The
model's choices it names: log entry 1. -/
def Obligations.MarksNeverStopACommand : Prop :=
  ∀ i s w, SameOutcome (fun t t' => t' = { t with xWritten := t'.xWritten }) (exec i s) (exec i { s with xWritten := w })

/-- Two canonical memories that read alike are the same data. Rests on 10_state.md R28, 20_memory.md R40,
20_memory.md R44. -/
def Obligations.CanonicalBufIsDeterminedByItsReads : Prop :=
  ∀ m m' : Memory, Memory.wf m = true → Memory.wf m' = true → (∀ a, Memory.read m a = Memory.read m' a) → m = m'

/-- The four pseudo-instructions expand to the commands R68 shows, and those do what it says they mean.
Formalises R68. -/
def Obligations.PseudoInstructionsDoWhatTheySay : Prop :=
  (∀ rd ry ra, Pseudo.expand (.gfMulRnr rd ry ra) = [.gfMulRrn rd ra ry] ∧
      Pseudo.expand (.gfMulNnr rd ry ra) = [.gfMulNrn rd ra ry] ∧
      Pseudo.expand (.gfMulZzr rd ry ra) = [.gfMulZrz rd ra ry]) ∧
    (∀ rd (imm32 : Word), Pseudo.expand (.li32 rd imm32) =
      [.li rd (BitVec.ofNat 16 (imm32.toNat % 65536)), .lih rd (BitVec.ofNat 16 (imm32.toNat / 65536))]) ∧
    (∀ rd ry ra s, FieldReady s → Written s ry → Written s ra → badR s.field s.x[ra.val] = none →
      (badN s.field s.x[ry.val] = none →
        (∃ t, exec (.gfMulRrn rd ra ry) s = .next t ∧
          WritesOnly rd (BitVec.ofInt 32 (foldOnce s.field (s.x[ra.val].toNat + logOf s.field s.x[ry.val]))) s t) ∧
        ∃ t, exec (.gfMulNrn rd ra ry) s = .next t ∧
          WritesOnly rd (BitVec.ofInt 32 (expOf s.field
            (foldOnce s.field (s.x[ra.val].toNat + logOf s.field s.x[ry.val])))) s t) ∧
      (badZ s.field s.x[ry.val] = none →
        ∃ t, exec (.gfMulZrz rd ra ry) s = .next t ∧
          WritesOnly rd (BitVec.ofInt 32 (if s.x[ry.val] = 0 then 0 else expOf s.field
            (foldOnce s.field (s.x[ra.val].toNat + logOf s.field s.x[ry.val])))) s t)) ∧
    ∀ rd (imm32 : Word) s, ∃ t u, exec (.li rd (BitVec.ofNat 16 (imm32.toNat % 65536))) s = .next t ∧
      exec (.lih rd (BitVec.ofNat 16 (imm32.toNat / 65536))) t = .next u ∧ Responds .ok s t ∧ Responds .ok t u ∧
      SetsReg rd imm32 s u ∧ SameBuf s u ∧ SameError s u ∧ SameGf s u ∧ SameEmsa s u ∧ SamePorts s u
end

