-- ==== Sys2Proof/Laws/Decode.lean ====
section
/-! SUPPORT. How a field read from a word meets a field placed in it (30_encoding.md R61, R64): the field
itself where they coincide, zero where they are disjoint; and from these the fields of each word shape. -/

namespace Sys2Proof

/-! ### One placed field -/

/-- A field of an OR is the OR of the fields. -/
theorem extract_or (x y : Word) (s n : Nat) :
    (x ||| y).extractLsb' s n = x.extractLsb' s n ||| y.extractLsb' s n := by
  ext i hi
  simp

/-- A field below a placed value is zero. -/
theorem extract_below (x : Word) {s n k : Nat} (h : s + n ≤ k) : (x <<< k).extractLsb' s n = 0#n := by
  ext i hi
  simp
  omega

/-- A field above a placed value is zero. -/
theorem extract_above {w : Nat} (x : BitVec w) {s n k : Nat} (h : k + w ≤ s) :
    (x.setWidth 32 <<< k).extractLsb' s n = 0#n := by
  ext i hi
  have : x.getLsbD (s + i - k) = false := BitVec.getLsbD_of_ge x _ (by omega)
  simp [this]

/-- A placed value is its own field. -/
theorem extract_at {n : Nat} (x : BitVec n) {k : Nat} (h : k + n ≤ 32) :
    (x.setWidth 32 <<< k).extractLsb' k n = x := by
  ext i hi
  have h1 : k + i < 32 := by omega
  simp [h1, BitVec.getLsbD_eq_getElem hi]

/-- A register number is a 4-bit value. -/
theorem regBits_eq (r : Reg) (lo : Nat) : regBits r lo = (BitVec.ofFin (w := 4) r).setWidth 32 <<< lo := by
  have : BitVec.ofNat 32 r.val = (BitVec.ofFin (w := 4) r).setWidth 32 := by
    revert r
    decide
  rw [regBits, this]

/-! ### The fields of the word shapes -/

section Shapes

variable (op : BitVec 8) (rd rs1 rs2 : Reg) (csr : BitVec 8) (imm16 : BitVec 16)

/-- An opcode placed in bits 7:0 is its own field. -/
theorem extract_opcode_at : (op.setWidth 32).extractLsb' 0 8 = op := by
  simpa using extract_at op (k := 0) (by omega)

/-- Bits 31:8 of an opcode are zero. -/
theorem extract_opcode_above {s n : Nat} (h : 8 ≤ s) : (op.setWidth 32).extractLsb' s n = 0#n := by
  simpa using extract_above op (s := s) (n := n) (k := 0) (by omega)

/-- The opcode of a word of format R. -/
theorem opcodeField_wordR : opcodeField (wordR (op.setWidth 32) rd rs1 rs2) = op := by
  simp [opcodeField, wordR, extract_or, regBits_eq, extract_below, extract_opcode_at]

/-- The opcode of a word of format R1. -/
theorem opcodeField_wordR1 : opcodeField (wordR1 (op.setWidth 32) rd rs1) = op := by
  simp [opcodeField, wordR1, extract_or, regBits_eq, extract_below, extract_opcode_at]

/-- The opcode of a word of format I. -/
theorem opcodeField_wordI : opcodeField (wordI (op.setWidth 32) rd imm16) = op := by
  simp [opcodeField, wordI, extract_or, regBits_eq, extract_below, extract_opcode_at]

/-- The opcode of a word of format C. -/
theorem opcodeField_wordC : opcodeField (wordC (op.setWidth 32) rd csr) = op := by
  simp [opcodeField, wordC, extract_or, regBits_eq, extract_below, extract_opcode_at]

/-- The opcode of a word of format K. -/
theorem opcodeField_wordK : opcodeField (wordK (op.setWidth 32) csr imm16) = op := by
  simp [opcodeField, wordK, extract_or, extract_below, extract_opcode_at]

/-- The register number of a placed register. -/
theorem regField_or_eq {w : Word} {lo : Nat} {r : Reg} (h : w.extractLsb' lo 4 = BitVec.ofFin (w := 4) r) :
    regField w lo = r := by
  simp [regField, h]

/-- A format R decoder reads back what the encoder wrote. -/
theorem decodeR_wordR (mk : Reg → Reg → Reg → Instr) :
    decodeR (wordR (op.setWidth 32) rd rs1 rs2) mk = .ok (mk rd rs1 rs2) := by
  have h0 : zeroField (wordR (op.setWidth 32) rd rs1 rs2) 20 12 = true := by
    simp [zeroField, wordR, extract_or, regBits_eq, extract_above, extract_opcode_above]
  have h1 : regField (wordR (op.setWidth 32) rd rs1 rs2) 8 = rd := by
    apply regField_or_eq
    simp [wordR, extract_or, regBits_eq, extract_below, extract_at, extract_opcode_above]
  have h2 : regField (wordR (op.setWidth 32) rd rs1 rs2) 12 = rs1 := by
    apply regField_or_eq
    simp [wordR, extract_or, regBits_eq, extract_below, extract_above, extract_at, extract_opcode_above]
  have h3 : regField (wordR (op.setWidth 32) rd rs1 rs2) 16 = rs2 := by
    apply regField_or_eq
    simp [wordR, extract_or, regBits_eq, extract_above, extract_at, extract_opcode_above]
  simp [decodeR, checkZero, h0, h1, h2, h3]

/-- A format R1 decoder reads back what the encoder wrote. -/
theorem decodeR1_wordR1 (mk : Reg → Reg → Instr) :
    decodeR1 (wordR1 (op.setWidth 32) rd rs1) mk = .ok (mk rd rs1) := by
  have h0 : zeroField (wordR1 (op.setWidth 32) rd rs1) 16 16 = true := by
    simp [zeroField, wordR1, extract_or, regBits_eq, extract_above, extract_opcode_above]
  have h1 : regField (wordR1 (op.setWidth 32) rd rs1) 8 = rd := by
    apply regField_or_eq
    simp [wordR1, extract_or, regBits_eq, extract_below, extract_at, extract_opcode_above]
  have h2 : regField (wordR1 (op.setWidth 32) rd rs1) 12 = rs1 := by
    apply regField_or_eq
    simp [wordR1, extract_or, regBits_eq, extract_above, extract_at, extract_opcode_above]
  simp [decodeR1, checkZero, h0, h1, h2]

/-- A format I decoder reads back what the encoder wrote. -/
theorem decodeI_wordI (mk : Reg → BitVec 16 → Instr) :
    decodeI (wordI (op.setWidth 32) rd imm16) mk = .ok (mk rd imm16) := by
  have h0 : zeroField (wordI (op.setWidth 32) rd imm16) 12 4 = true := by
    simp [zeroField, wordI, extract_or, regBits_eq, extract_above, extract_below, extract_opcode_above]
  have h1 : regField (wordI (op.setWidth 32) rd imm16) 8 = rd := by
    apply regField_or_eq
    simp [wordI, extract_or, regBits_eq, extract_below, extract_at, extract_opcode_above]
  have h2 : immField (wordI (op.setWidth 32) rd imm16) = imm16 := by
    simp [immField, wordI, extract_or, regBits_eq, extract_above, extract_at, extract_opcode_above]
  simp [decodeI, checkZero, h0, h1, h2]

/-- A format C decoder reads back what the encoder wrote. -/
theorem decodeC_wordC (mk : Reg → BitVec 8 → Instr) :
    decodeC (wordC (op.setWidth 32) rd csr) mk = .ok (mk rd csr) := by
  have h0 : zeroField (wordC (op.setWidth 32) rd csr) 12 4 = true := by
    simp [zeroField, wordC, extract_or, regBits_eq, extract_above, extract_below, extract_opcode_above]
  have h1 : zeroField (wordC (op.setWidth 32) rd csr) 24 8 = true := by
    simp [zeroField, wordC, extract_or, regBits_eq, extract_above, extract_opcode_above]
  have h2 : regField (wordC (op.setWidth 32) rd csr) 8 = rd := by
    apply regField_or_eq
    simp [wordC, extract_or, regBits_eq, extract_below, extract_at, extract_opcode_above]
  have h3 : (wordC (op.setWidth 32) rd csr).extractLsb' 16 8 = csr := by
    simp [wordC, extract_or, regBits_eq, extract_above, extract_at, extract_opcode_above]
  simp [decodeC, checkZero, h0, h1, h2, h3]

/-- A format K decoder reads back what the encoder wrote. -/
theorem decodeK_wordK (mk : BitVec 8 → BitVec 16 → Instr) :
    decodeK (wordK (op.setWidth 32) csr imm16) mk = .ok (mk csr imm16) := by
  have h1 : (wordK (op.setWidth 32) csr imm16).extractLsb' 8 8 = csr := by
    simp [wordK, extract_or, extract_below, extract_at, extract_opcode_above]
  have h2 : immField (wordK (op.setWidth 32) csr imm16) = imm16 := by
    simp [immField, wordK, extract_or, extract_above, extract_at, extract_opcode_above]
  simp [decodeK, h1, h2]

end Shapes

end Sys2Proof
end

