-- ==== Sys2Proof/Laws/Memory.lean ====
section
/-! SUPPORT. The laws of BUF (20_memory.md R42 to R45): a read after a write, the frame of a write, the
canonical form, and the same for ranges. -/

namespace Sys2Proof.Machine

/-! ### One byte -/

/-- A byte just written reads as written (R43). -/
@[simp] theorem Memory.read_write_same (m : Memory) (a : Nat) (b : Byte) :
    Memory.read (Memory.write m a b) a = some b := by
  induction m with
  | nil => simp [Memory.write, Memory.read]
  | cons e m ih =>
    obtain ⟨k, c⟩ := e
    simp only [Memory.write]
    split
    · simp [Memory.read]
    · split
      · simp [Memory.read]
      · simp [Memory.read, *]

/-- A write leaves every other byte alone (R43). -/
theorem Memory.read_write_other (m : Memory) {a a' : Nat} (b : Byte) (h : a' ≠ a) :
    Memory.read (Memory.write m a b) a' = Memory.read m a' := by
  induction m with
  | nil => simp [Memory.write, Memory.read, h]
  | cons e m ih =>
    obtain ⟨k, c⟩ := e
    simp only [Memory.write]
    split
    · simp [Memory.read, h]
    · split
      · rename_i hk
        subst hk
        simp [Memory.read, h]
      · simp only [Memory.read, ih]

/-! ### The canonical form -/

/-- The tail of a canonical memory is canonical, and its addresses lie above the head's. -/
theorem Memory.wf_cons {k : Nat} {c : Byte} {m : Memory} :
    Memory.wf ((k, c) :: m) = true ↔
      k < Config.bufSize ∧ Memory.wf m = true ∧ ∀ e ∈ m.head?, k < e.1 := by
  cases m with
  | nil => simp [Memory.wf]
  | cons e m =>
    obtain ⟨k', c'⟩ := e
    constructor
    · intro h
      simp only [Memory.wf, Bool.and_eq_true, decide_eq_true_eq] at h
      refine ⟨?_, h.2, by simpa using h.1⟩
      have : k' < Config.bufSize := by
        cases m with
        | nil => simpa [Memory.wf] using h.2
        | cons e m =>
          clear * - h
          obtain ⟨h1, h2⟩ := h
          induction m generalizing k k' c' e with
          | nil => obtain ⟨k'', c''⟩ := e; simp [Memory.wf] at h2; omega
          | cons e' m ih =>
            obtain ⟨k'', c''⟩ := e
            simp only [Memory.wf, Bool.and_eq_true, decide_eq_true_eq] at h2
            have := ih (k := k') (k' := k'') (c' := c'') (e := e') h2.1 (by simpa [Memory.wf] using h2.2)
            omega
      omega
    · rintro ⟨-, h2, h3⟩
      simp only [Memory.wf, Bool.and_eq_true, decide_eq_true_eq]
      exact ⟨by simpa using h3, h2⟩

/-- The head of a memory after a write lies at the written address or at the old head. -/
theorem Memory.head_write {m : Memory} {a : Nat} {b : Byte} {e : Host.Cell}
    (h : e ∈ (Memory.write m a b).head?) : e.1 = a ∨ ∃ e' ∈ m.head?, e.1 = e'.1 := by
  cases m with
  | nil => simp [Memory.write] at h; subst h; simp
  | cons e0 m =>
    obtain ⟨k, c⟩ := e0
    simp only [Memory.write] at h
    split at h
    · simp at h; subst h; simp
    · split at h <;> simp at h <;> subst h <;> simp

/-- A write inside BUF keeps the canonical form. -/
theorem Memory.wf_write {m : Memory} {a : Nat} (b : Byte) (h : Memory.wf m = true) (ha : a < Config.bufSize) :
    Memory.wf (Memory.write m a b) = true := by
  induction m with
  | nil => simpa [Memory.write, Memory.wf] using ha
  | cons e m ih =>
    obtain ⟨k, c⟩ := e
    have hc := Memory.wf_cons.mp h
    simp only [Memory.write]
    split
    · rename_i hlt
      exact Memory.wf_cons.mpr ⟨ha, h, by simpa using hlt⟩
    · split
      · rename_i hk
        subst hk
        exact Memory.wf_cons.mpr ⟨ha, hc.2.1, hc.2.2⟩
      · refine Memory.wf_cons.mpr ⟨hc.1, ih hc.2.1, ?_⟩
        intro e he
        rcases Memory.head_write he with h1 | ⟨e', he', h1⟩
        · omega
        · have := hc.2.2 e' he'; omega

/-! ### Ranges -/

/-- The byte just written to a range, when the range goes on above it, stays. -/
theorem Memory.read_writeRange_outside (bs : List Byte) (m : Memory) {a c : Nat}
    (h : c < a ∨ a + bs.length ≤ c) : Memory.read (Memory.writeRange m a bs) c = Memory.read m c := by
  induction bs generalizing m a with
  | nil => rfl
  | cons b bs ih =>
    simp only [List.length_cons] at h
    rw [Memory.writeRange, ih _ (by omega), Memory.read_write_other _ _ (by omega)]

/-- Byte i of the sequence is at a + i (R43). -/
theorem Memory.read_writeRange_inside (bs : List Byte) (m : Memory) (a : Nat) {i : Nat} (h : i < bs.length) :
    Memory.read (Memory.writeRange m a bs) (a + i) = bs[i]? := by
  induction bs generalizing m a i with
  | nil => simp at h
  | cons b bs ih =>
    rw [Memory.writeRange]
    cases i with
    | zero => rw [Memory.read_writeRange_outside _ _ (by omega)]; simp
    | succ i =>
      have := ih (Memory.write m a b) (a + 1) (i := i) (by simpa using h)
      simpa [Nat.add_comm, Nat.add_left_comm] using this

/-- A range write inside BUF keeps the canonical form. -/
theorem Memory.wf_writeRange {bs : List Byte} {m : Memory} {a : Nat} (h : Memory.wf m = true)
    (ha : a + bs.length ≤ Config.bufSize) : Memory.wf (Memory.writeRange m a bs) = true := by
  induction bs generalizing m a with
  | nil => simpa [Memory.writeRange] using h
  | cons b bs ih =>
    simp only [List.length_cons] at ha
    exact ih (Memory.wf_write b h (by omega)) (by omega)

/-- `MemRead` gives bs exactly when bs are the n bytes from a, in address order (R42). -/
theorem Memory.readRange_eq_some {m : Memory} {a n : Nat} {bs : List Byte} :
    Memory.readRange m a n = some bs ↔
      bs.length = n ∧ ∀ i, i < bs.length → Memory.read m (a + i) = bs[i]? := by
  induction n generalizing a bs with
  | zero =>
    simp only [Memory.readRange, Option.some.injEq, List.length_eq_zero_iff]
    constructor
    · intro h; subst h; simp
    · intro h; exact h.1.symm
  | succ n ih =>
    constructor
    · intro h
      simp only [Memory.readRange] at h
      split at h
      · rename_i b bs' hb hbs
        injection h with h
        subst h
        obtain ⟨hl, hr⟩ := ih.mp hbs
        refine ⟨by simp [hl], ?_⟩
        intro i hi
        cases i with
        | zero => simpa using hb
        | succ i =>
          have := hr i (by simpa using hi)
          simpa [Nat.add_comm, Nat.add_left_comm] using this
      · cases h
    · rintro ⟨hl, hr⟩
      cases bs with
      | nil => simp at hl
      | cons b bs =>
        have h0 : Memory.read m a = some b := by simpa using hr 0 (by simp)
        have ht : Memory.readRange m (a + 1) n = some bs := by
          refine ih.mpr ⟨by simpa using hl, ?_⟩
          intro i hi
          have := hr (i + 1) (by simpa using hi)
          simpa [Nat.add_comm, Nat.add_left_comm] using this
        simp [Memory.readRange, h0, ht]

/-- `MemRead` has no value exactly when one of the n bytes is unwritten (R42). -/
theorem Memory.readRange_eq_none {m : Memory} {a n : Nat} :
    Memory.readRange m a n = none ↔ ∃ i, i < n ∧ Memory.read m (a + i) = none := by
  induction n generalizing a with
  | zero => simp [Memory.readRange]
  | succ n ih =>
    simp only [Memory.readRange]
    constructor
    · intro h
      split at h
      · cases h
      · rename_i hno
        cases h0 : Memory.read m a with
        | none => exact ⟨0, by omega, by simpa using h0⟩
        | some b =>
          cases h1 : Memory.readRange m (a + 1) n with
          | some bs => exact absurd h1 (hno b bs h0)
          | none =>
            obtain ⟨i, hi, hr⟩ := ih.mp h1
            exact ⟨i + 1, by omega, by simpa [Nat.add_comm, Nat.add_left_comm] using hr⟩
    · rintro ⟨i, hi, hr⟩
      cases i with
      | zero =>
        have h0 : Memory.read m a = none := by simpa using hr
        simp [h0]
      | succ i =>
        have h1 : Memory.readRange m (a + 1) n = none :=
          ih.mpr ⟨i, by omega, by simpa [Nat.add_comm, Nat.add_left_comm] using hr⟩
        simp [h1]

/-! ### The 16-bit codec (R45) -/

/-- A 16-bit value has two bytes. -/
@[simp] theorem be16Bytes_length (v : Half) : (be16Bytes v).length = 2 := rfl

/-- The value of two bytes is 256·b0 + b1. -/
@[simp] theorem be16_pair (b0 b1 : Byte) : be16 [b0, b1] = 256 * b0.toNat + b1.toNat := by
  simp [be16]

/-- Reading back what the encoder of a half wrote gives the half. -/
theorem be16_be16Bytes (v : Half) : be16 (be16Bytes v) = v.toNat := by
  have h := v.isLt
  simp only [be16Bytes, be16_pair, BitVec.extractLsb'_toNat, Nat.shiftRight_eq_div_pow]
  omega

end Sys2Proof.Machine
end

