-- ==== Sys2Proof/Laws/State.lean ====
section
/-! SUPPORT. One lemma per field per named update of State, so that no proof unfolds a record update. -/

namespace Sys2Proof.Machine

variable (s : State)

/-! ### `writeReg` -/

@[simp] theorem State.writeReg_x (r : Reg) (v : Word) : (s.writeReg r v).x = s.x.set r.val v := rfl
@[simp] theorem State.writeReg_xWritten (r : Reg) (v : Word) : (s.writeReg r v).xWritten = s.xWritten.set r.val true := rfl
@[simp] theorem State.writeReg_buf (r : Reg) (v : Word) : (s.writeReg r v).buf = s.buf := rfl
@[simp] theorem State.writeReg_cause (r : Reg) (v : Word) : (s.writeReg r v).cause = s.cause := rfl
@[simp] theorem State.writeReg_faultCmd (r : Reg) (v : Word) : (s.writeReg r v).faultCmd = s.faultCmd := rfl
@[simp] theorem State.writeReg_gfM (r : Reg) (v : Word) : (s.writeReg r v).gfM = s.gfM := rfl
@[simp] theorem State.writeReg_frozen (r : Reg) (v : Word) : (s.writeReg r v).frozen = s.frozen := rfl
@[simp] theorem State.writeReg_emsaMode (r : Reg) (v : Word) : (s.writeReg r v).emsaMode = s.emsaMode := rfl
@[simp] theorem State.writeReg_emsaExpect (r : Reg) (v : Word) : (s.writeReg r v).emsaExpect = s.emsaExpect := rfl
@[simp] theorem State.writeReg_emsaSrc (r : Reg) (v : Word) : (s.writeReg r v).emsaSrc = s.emsaSrc := rfl
@[simp] theorem State.writeReg_emsaLen (r : Reg) (v : Word) : (s.writeReg r v).emsaLen = s.emsaLen := rfl
@[simp] theorem State.writeReg_emsaDst (r : Reg) (v : Word) : (s.writeReg r v).emsaDst = s.emsaDst := rfl
@[simp] theorem State.writeReg_emsaBits (r : Reg) (v : Word) : (s.writeReg r v).emsaBits = s.emsaBits := rfl
@[simp] theorem State.writeReg_emsaAux (r : Reg) (v : Word) : (s.writeReg r v).emsaAux = s.emsaAux := rfl
@[simp] theorem State.writeReg_emsaAuxLen (r : Reg) (v : Word) : (s.writeReg r v).emsaAuxLen = s.emsaAuxLen := rfl
@[simp] theorem State.writeReg_emsaOutLen (r : Reg) (v : Word) : (s.writeReg r v).emsaOutLen = s.emsaOutLen := rfl
@[simp] theorem State.writeReg_emsaResult (r : Reg) (v : Word) : (s.writeReg r v).emsaResult = s.emsaResult := rfl
@[simp] theorem State.writeReg_pending (r : Reg) (v : Word) : (s.writeReg r v).pending = s.pending := rfl
@[simp] theorem State.writeReg_hashId (r : Reg) (v : Word) : (s.writeReg r v).hashId = s.hashId := rfl
@[simp] theorem State.writeReg_hashName (r : Reg) (v : Word) : (s.writeReg r v).hashName = s.hashName := rfl
@[simp] theorem State.writeReg_inputs (r : Reg) (v : Word) : (s.writeReg r v).inputs = s.inputs := rfl
@[simp] theorem State.writeReg_responses (r : Reg) (v : Word) : (s.writeReg r v).responses = s.responses := rfl
@[simp] theorem State.writeReg_index (r : Reg) (v : Word) : (s.writeReg r v).index = s.index := rfl
@[simp] theorem State.writeReg_params (r : Reg) (v : Word) : (s.writeReg r v).params = s.params := rfl

/-! ### `setBuf` -/

@[simp] theorem State.setBuf_x (m : Memory) : (s.setBuf m).x = s.x := rfl
@[simp] theorem State.setBuf_xWritten (m : Memory) : (s.setBuf m).xWritten = s.xWritten := rfl
@[simp] theorem State.setBuf_buf (m : Memory) : (s.setBuf m).buf = m := rfl
@[simp] theorem State.setBuf_cause (m : Memory) : (s.setBuf m).cause = s.cause := rfl
@[simp] theorem State.setBuf_faultCmd (m : Memory) : (s.setBuf m).faultCmd = s.faultCmd := rfl
@[simp] theorem State.setBuf_gfM (m : Memory) : (s.setBuf m).gfM = s.gfM := rfl
@[simp] theorem State.setBuf_frozen (m : Memory) : (s.setBuf m).frozen = s.frozen := rfl
@[simp] theorem State.setBuf_emsaMode (m : Memory) : (s.setBuf m).emsaMode = s.emsaMode := rfl
@[simp] theorem State.setBuf_emsaExpect (m : Memory) : (s.setBuf m).emsaExpect = s.emsaExpect := rfl
@[simp] theorem State.setBuf_emsaSrc (m : Memory) : (s.setBuf m).emsaSrc = s.emsaSrc := rfl
@[simp] theorem State.setBuf_emsaLen (m : Memory) : (s.setBuf m).emsaLen = s.emsaLen := rfl
@[simp] theorem State.setBuf_emsaDst (m : Memory) : (s.setBuf m).emsaDst = s.emsaDst := rfl
@[simp] theorem State.setBuf_emsaBits (m : Memory) : (s.setBuf m).emsaBits = s.emsaBits := rfl
@[simp] theorem State.setBuf_emsaAux (m : Memory) : (s.setBuf m).emsaAux = s.emsaAux := rfl
@[simp] theorem State.setBuf_emsaAuxLen (m : Memory) : (s.setBuf m).emsaAuxLen = s.emsaAuxLen := rfl
@[simp] theorem State.setBuf_emsaOutLen (m : Memory) : (s.setBuf m).emsaOutLen = s.emsaOutLen := rfl
@[simp] theorem State.setBuf_emsaResult (m : Memory) : (s.setBuf m).emsaResult = s.emsaResult := rfl
@[simp] theorem State.setBuf_pending (m : Memory) : (s.setBuf m).pending = s.pending := rfl
@[simp] theorem State.setBuf_hashId (m : Memory) : (s.setBuf m).hashId = s.hashId := rfl
@[simp] theorem State.setBuf_hashName (m : Memory) : (s.setBuf m).hashName = s.hashName := rfl
@[simp] theorem State.setBuf_inputs (m : Memory) : (s.setBuf m).inputs = s.inputs := rfl
@[simp] theorem State.setBuf_responses (m : Memory) : (s.setBuf m).responses = s.responses := rfl
@[simp] theorem State.setBuf_index (m : Memory) : (s.setBuf m).index = s.index := rfl
@[simp] theorem State.setBuf_params (m : Memory) : (s.setBuf m).params = s.params := rfl

/-! ### `setPending` -/

@[simp] theorem State.setPending_x (bs : List Byte) : (s.setPending bs).x = s.x := rfl
@[simp] theorem State.setPending_xWritten (bs : List Byte) : (s.setPending bs).xWritten = s.xWritten := rfl
@[simp] theorem State.setPending_buf (bs : List Byte) : (s.setPending bs).buf = s.buf := rfl
@[simp] theorem State.setPending_cause (bs : List Byte) : (s.setPending bs).cause = s.cause := rfl
@[simp] theorem State.setPending_faultCmd (bs : List Byte) : (s.setPending bs).faultCmd = s.faultCmd := rfl
@[simp] theorem State.setPending_gfM (bs : List Byte) : (s.setPending bs).gfM = s.gfM := rfl
@[simp] theorem State.setPending_frozen (bs : List Byte) : (s.setPending bs).frozen = s.frozen := rfl
@[simp] theorem State.setPending_emsaMode (bs : List Byte) : (s.setPending bs).emsaMode = s.emsaMode := rfl
@[simp] theorem State.setPending_emsaExpect (bs : List Byte) : (s.setPending bs).emsaExpect = s.emsaExpect := rfl
@[simp] theorem State.setPending_emsaSrc (bs : List Byte) : (s.setPending bs).emsaSrc = s.emsaSrc := rfl
@[simp] theorem State.setPending_emsaLen (bs : List Byte) : (s.setPending bs).emsaLen = s.emsaLen := rfl
@[simp] theorem State.setPending_emsaDst (bs : List Byte) : (s.setPending bs).emsaDst = s.emsaDst := rfl
@[simp] theorem State.setPending_emsaBits (bs : List Byte) : (s.setPending bs).emsaBits = s.emsaBits := rfl
@[simp] theorem State.setPending_emsaAux (bs : List Byte) : (s.setPending bs).emsaAux = s.emsaAux := rfl
@[simp] theorem State.setPending_emsaAuxLen (bs : List Byte) : (s.setPending bs).emsaAuxLen = s.emsaAuxLen := rfl
@[simp] theorem State.setPending_emsaOutLen (bs : List Byte) : (s.setPending bs).emsaOutLen = s.emsaOutLen := rfl
@[simp] theorem State.setPending_emsaResult (bs : List Byte) : (s.setPending bs).emsaResult = s.emsaResult := rfl
@[simp] theorem State.setPending_pending (bs : List Byte) : (s.setPending bs).pending = bs := rfl
@[simp] theorem State.setPending_hashId (bs : List Byte) : (s.setPending bs).hashId = s.hashId := rfl
@[simp] theorem State.setPending_hashName (bs : List Byte) : (s.setPending bs).hashName = s.hashName := rfl
@[simp] theorem State.setPending_inputs (bs : List Byte) : (s.setPending bs).inputs = s.inputs := rfl
@[simp] theorem State.setPending_responses (bs : List Byte) : (s.setPending bs).responses = s.responses := rfl
@[simp] theorem State.setPending_index (bs : List Byte) : (s.setPending bs).index = s.index := rfl
@[simp] theorem State.setPending_params (bs : List Byte) : (s.setPending bs).params = s.params := rfl

/-! ### `setHashId` -/

@[simp] theorem State.setHashId_x (bs : List Byte) : (s.setHashId bs).x = s.x := rfl
@[simp] theorem State.setHashId_xWritten (bs : List Byte) : (s.setHashId bs).xWritten = s.xWritten := rfl
@[simp] theorem State.setHashId_buf (bs : List Byte) : (s.setHashId bs).buf = s.buf := rfl
@[simp] theorem State.setHashId_cause (bs : List Byte) : (s.setHashId bs).cause = s.cause := rfl
@[simp] theorem State.setHashId_faultCmd (bs : List Byte) : (s.setHashId bs).faultCmd = s.faultCmd := rfl
@[simp] theorem State.setHashId_gfM (bs : List Byte) : (s.setHashId bs).gfM = s.gfM := rfl
@[simp] theorem State.setHashId_frozen (bs : List Byte) : (s.setHashId bs).frozen = s.frozen := rfl
@[simp] theorem State.setHashId_emsaMode (bs : List Byte) : (s.setHashId bs).emsaMode = s.emsaMode := rfl
@[simp] theorem State.setHashId_emsaExpect (bs : List Byte) : (s.setHashId bs).emsaExpect = s.emsaExpect := rfl
@[simp] theorem State.setHashId_emsaSrc (bs : List Byte) : (s.setHashId bs).emsaSrc = s.emsaSrc := rfl
@[simp] theorem State.setHashId_emsaLen (bs : List Byte) : (s.setHashId bs).emsaLen = s.emsaLen := rfl
@[simp] theorem State.setHashId_emsaDst (bs : List Byte) : (s.setHashId bs).emsaDst = s.emsaDst := rfl
@[simp] theorem State.setHashId_emsaBits (bs : List Byte) : (s.setHashId bs).emsaBits = s.emsaBits := rfl
@[simp] theorem State.setHashId_emsaAux (bs : List Byte) : (s.setHashId bs).emsaAux = s.emsaAux := rfl
@[simp] theorem State.setHashId_emsaAuxLen (bs : List Byte) : (s.setHashId bs).emsaAuxLen = s.emsaAuxLen := rfl
@[simp] theorem State.setHashId_emsaOutLen (bs : List Byte) : (s.setHashId bs).emsaOutLen = s.emsaOutLen := rfl
@[simp] theorem State.setHashId_emsaResult (bs : List Byte) : (s.setHashId bs).emsaResult = s.emsaResult := rfl
@[simp] theorem State.setHashId_pending (bs : List Byte) : (s.setHashId bs).pending = s.pending := rfl
@[simp] theorem State.setHashId_hashId (bs : List Byte) : (s.setHashId bs).hashId = bs := rfl
@[simp] theorem State.setHashId_hashName (bs : List Byte) : (s.setHashId bs).hashName = s.hashName := rfl
@[simp] theorem State.setHashId_inputs (bs : List Byte) : (s.setHashId bs).inputs = s.inputs := rfl
@[simp] theorem State.setHashId_responses (bs : List Byte) : (s.setHashId bs).responses = s.responses := rfl
@[simp] theorem State.setHashId_index (bs : List Byte) : (s.setHashId bs).index = s.index := rfl
@[simp] theorem State.setHashId_params (bs : List Byte) : (s.setHashId bs).params = s.params := rfl

/-! ### `setHashName` -/

@[simp] theorem State.setHashName_x (bs : List Byte) : (s.setHashName bs).x = s.x := rfl
@[simp] theorem State.setHashName_xWritten (bs : List Byte) : (s.setHashName bs).xWritten = s.xWritten := rfl
@[simp] theorem State.setHashName_buf (bs : List Byte) : (s.setHashName bs).buf = s.buf := rfl
@[simp] theorem State.setHashName_cause (bs : List Byte) : (s.setHashName bs).cause = s.cause := rfl
@[simp] theorem State.setHashName_faultCmd (bs : List Byte) : (s.setHashName bs).faultCmd = s.faultCmd := rfl
@[simp] theorem State.setHashName_gfM (bs : List Byte) : (s.setHashName bs).gfM = s.gfM := rfl
@[simp] theorem State.setHashName_frozen (bs : List Byte) : (s.setHashName bs).frozen = s.frozen := rfl
@[simp] theorem State.setHashName_emsaMode (bs : List Byte) : (s.setHashName bs).emsaMode = s.emsaMode := rfl
@[simp] theorem State.setHashName_emsaExpect (bs : List Byte) : (s.setHashName bs).emsaExpect = s.emsaExpect := rfl
@[simp] theorem State.setHashName_emsaSrc (bs : List Byte) : (s.setHashName bs).emsaSrc = s.emsaSrc := rfl
@[simp] theorem State.setHashName_emsaLen (bs : List Byte) : (s.setHashName bs).emsaLen = s.emsaLen := rfl
@[simp] theorem State.setHashName_emsaDst (bs : List Byte) : (s.setHashName bs).emsaDst = s.emsaDst := rfl
@[simp] theorem State.setHashName_emsaBits (bs : List Byte) : (s.setHashName bs).emsaBits = s.emsaBits := rfl
@[simp] theorem State.setHashName_emsaAux (bs : List Byte) : (s.setHashName bs).emsaAux = s.emsaAux := rfl
@[simp] theorem State.setHashName_emsaAuxLen (bs : List Byte) : (s.setHashName bs).emsaAuxLen = s.emsaAuxLen := rfl
@[simp] theorem State.setHashName_emsaOutLen (bs : List Byte) : (s.setHashName bs).emsaOutLen = s.emsaOutLen := rfl
@[simp] theorem State.setHashName_emsaResult (bs : List Byte) : (s.setHashName bs).emsaResult = s.emsaResult := rfl
@[simp] theorem State.setHashName_pending (bs : List Byte) : (s.setHashName bs).pending = s.pending := rfl
@[simp] theorem State.setHashName_hashId (bs : List Byte) : (s.setHashName bs).hashId = s.hashId := rfl
@[simp] theorem State.setHashName_hashName (bs : List Byte) : (s.setHashName bs).hashName = bs := rfl
@[simp] theorem State.setHashName_inputs (bs : List Byte) : (s.setHashName bs).inputs = s.inputs := rfl
@[simp] theorem State.setHashName_responses (bs : List Byte) : (s.setHashName bs).responses = s.responses := rfl
@[simp] theorem State.setHashName_index (bs : List Byte) : (s.setHashName bs).index = s.index := rfl
@[simp] theorem State.setHashName_params (bs : List Byte) : (s.setHashName bs).params = s.params := rfl

/-! ### `setOutLen` -/

@[simp] theorem State.setOutLen_x (n : Nat) : (s.setOutLen n).x = s.x := rfl
@[simp] theorem State.setOutLen_xWritten (n : Nat) : (s.setOutLen n).xWritten = s.xWritten := rfl
@[simp] theorem State.setOutLen_buf (n : Nat) : (s.setOutLen n).buf = s.buf := rfl
@[simp] theorem State.setOutLen_cause (n : Nat) : (s.setOutLen n).cause = s.cause := rfl
@[simp] theorem State.setOutLen_faultCmd (n : Nat) : (s.setOutLen n).faultCmd = s.faultCmd := rfl
@[simp] theorem State.setOutLen_gfM (n : Nat) : (s.setOutLen n).gfM = s.gfM := rfl
@[simp] theorem State.setOutLen_frozen (n : Nat) : (s.setOutLen n).frozen = s.frozen := rfl
@[simp] theorem State.setOutLen_emsaMode (n : Nat) : (s.setOutLen n).emsaMode = s.emsaMode := rfl
@[simp] theorem State.setOutLen_emsaExpect (n : Nat) : (s.setOutLen n).emsaExpect = s.emsaExpect := rfl
@[simp] theorem State.setOutLen_emsaSrc (n : Nat) : (s.setOutLen n).emsaSrc = s.emsaSrc := rfl
@[simp] theorem State.setOutLen_emsaLen (n : Nat) : (s.setOutLen n).emsaLen = s.emsaLen := rfl
@[simp] theorem State.setOutLen_emsaDst (n : Nat) : (s.setOutLen n).emsaDst = s.emsaDst := rfl
@[simp] theorem State.setOutLen_emsaBits (n : Nat) : (s.setOutLen n).emsaBits = s.emsaBits := rfl
@[simp] theorem State.setOutLen_emsaAux (n : Nat) : (s.setOutLen n).emsaAux = s.emsaAux := rfl
@[simp] theorem State.setOutLen_emsaAuxLen (n : Nat) : (s.setOutLen n).emsaAuxLen = s.emsaAuxLen := rfl
@[simp] theorem State.setOutLen_emsaOutLen (n : Nat) : (s.setOutLen n).emsaOutLen = BitVec.ofNat 32 n := rfl
@[simp] theorem State.setOutLen_emsaResult (n : Nat) : (s.setOutLen n).emsaResult = s.emsaResult := rfl
@[simp] theorem State.setOutLen_pending (n : Nat) : (s.setOutLen n).pending = s.pending := rfl
@[simp] theorem State.setOutLen_hashId (n : Nat) : (s.setOutLen n).hashId = s.hashId := rfl
@[simp] theorem State.setOutLen_hashName (n : Nat) : (s.setOutLen n).hashName = s.hashName := rfl
@[simp] theorem State.setOutLen_inputs (n : Nat) : (s.setOutLen n).inputs = s.inputs := rfl
@[simp] theorem State.setOutLen_responses (n : Nat) : (s.setOutLen n).responses = s.responses := rfl
@[simp] theorem State.setOutLen_index (n : Nat) : (s.setOutLen n).index = s.index := rfl
@[simp] theorem State.setOutLen_params (n : Nat) : (s.setOutLen n).params = s.params := rfl

/-! ### `setResult` -/

@[simp] theorem State.setResult_x (b : Bool) : (s.setResult b).x = s.x := rfl
@[simp] theorem State.setResult_xWritten (b : Bool) : (s.setResult b).xWritten = s.xWritten := rfl
@[simp] theorem State.setResult_buf (b : Bool) : (s.setResult b).buf = s.buf := rfl
@[simp] theorem State.setResult_cause (b : Bool) : (s.setResult b).cause = s.cause := rfl
@[simp] theorem State.setResult_faultCmd (b : Bool) : (s.setResult b).faultCmd = s.faultCmd := rfl
@[simp] theorem State.setResult_gfM (b : Bool) : (s.setResult b).gfM = s.gfM := rfl
@[simp] theorem State.setResult_frozen (b : Bool) : (s.setResult b).frozen = s.frozen := rfl
@[simp] theorem State.setResult_emsaMode (b : Bool) : (s.setResult b).emsaMode = s.emsaMode := rfl
@[simp] theorem State.setResult_emsaExpect (b : Bool) : (s.setResult b).emsaExpect = s.emsaExpect := rfl
@[simp] theorem State.setResult_emsaSrc (b : Bool) : (s.setResult b).emsaSrc = s.emsaSrc := rfl
@[simp] theorem State.setResult_emsaLen (b : Bool) : (s.setResult b).emsaLen = s.emsaLen := rfl
@[simp] theorem State.setResult_emsaDst (b : Bool) : (s.setResult b).emsaDst = s.emsaDst := rfl
@[simp] theorem State.setResult_emsaBits (b : Bool) : (s.setResult b).emsaBits = s.emsaBits := rfl
@[simp] theorem State.setResult_emsaAux (b : Bool) : (s.setResult b).emsaAux = s.emsaAux := rfl
@[simp] theorem State.setResult_emsaAuxLen (b : Bool) : (s.setResult b).emsaAuxLen = s.emsaAuxLen := rfl
@[simp] theorem State.setResult_emsaOutLen (b : Bool) : (s.setResult b).emsaOutLen = s.emsaOutLen := rfl
@[simp] theorem State.setResult_emsaResult (b : Bool) : (s.setResult b).emsaResult = b := rfl
@[simp] theorem State.setResult_pending (b : Bool) : (s.setResult b).pending = s.pending := rfl
@[simp] theorem State.setResult_hashId (b : Bool) : (s.setResult b).hashId = s.hashId := rfl
@[simp] theorem State.setResult_hashName (b : Bool) : (s.setResult b).hashName = s.hashName := rfl
@[simp] theorem State.setResult_inputs (b : Bool) : (s.setResult b).inputs = s.inputs := rfl
@[simp] theorem State.setResult_responses (b : Bool) : (s.setResult b).responses = s.responses := rfl
@[simp] theorem State.setResult_index (b : Bool) : (s.setResult b).index = s.index := rfl
@[simp] theorem State.setResult_params (b : Bool) : (s.setResult b).params = s.params := rfl

/-! ### `freeze` -/

@[simp] theorem State.freeze_x : (s.freeze).x = s.x := rfl
@[simp] theorem State.freeze_xWritten : (s.freeze).xWritten = s.xWritten := rfl
@[simp] theorem State.freeze_buf : (s.freeze).buf = s.buf := rfl
@[simp] theorem State.freeze_cause : (s.freeze).cause = s.cause := rfl
@[simp] theorem State.freeze_faultCmd : (s.freeze).faultCmd = s.faultCmd := rfl
@[simp] theorem State.freeze_gfM : (s.freeze).gfM = s.gfM := rfl
@[simp] theorem State.freeze_frozen : (s.freeze).frozen = true := rfl
@[simp] theorem State.freeze_emsaMode : (s.freeze).emsaMode = s.emsaMode := rfl
@[simp] theorem State.freeze_emsaExpect : (s.freeze).emsaExpect = s.emsaExpect := rfl
@[simp] theorem State.freeze_emsaSrc : (s.freeze).emsaSrc = s.emsaSrc := rfl
@[simp] theorem State.freeze_emsaLen : (s.freeze).emsaLen = s.emsaLen := rfl
@[simp] theorem State.freeze_emsaDst : (s.freeze).emsaDst = s.emsaDst := rfl
@[simp] theorem State.freeze_emsaBits : (s.freeze).emsaBits = s.emsaBits := rfl
@[simp] theorem State.freeze_emsaAux : (s.freeze).emsaAux = s.emsaAux := rfl
@[simp] theorem State.freeze_emsaAuxLen : (s.freeze).emsaAuxLen = s.emsaAuxLen := rfl
@[simp] theorem State.freeze_emsaOutLen : (s.freeze).emsaOutLen = s.emsaOutLen := rfl
@[simp] theorem State.freeze_emsaResult : (s.freeze).emsaResult = s.emsaResult := rfl
@[simp] theorem State.freeze_pending : (s.freeze).pending = s.pending := rfl
@[simp] theorem State.freeze_hashId : (s.freeze).hashId = s.hashId := rfl
@[simp] theorem State.freeze_hashName : (s.freeze).hashName = s.hashName := rfl
@[simp] theorem State.freeze_inputs : (s.freeze).inputs = s.inputs := rfl
@[simp] theorem State.freeze_responses : (s.freeze).responses = s.responses := rfl
@[simp] theorem State.freeze_index : (s.freeze).index = s.index := rfl
@[simp] theorem State.freeze_params : (s.freeze).params = s.params := rfl

/-! ### `respond` -/

@[simp] theorem State.respond_x (r : Response) : (s.respond r).x = s.x := rfl
@[simp] theorem State.respond_xWritten (r : Response) : (s.respond r).xWritten = s.xWritten := rfl
@[simp] theorem State.respond_buf (r : Response) : (s.respond r).buf = s.buf := rfl
@[simp] theorem State.respond_cause (r : Response) : (s.respond r).cause = s.cause := rfl
@[simp] theorem State.respond_faultCmd (r : Response) : (s.respond r).faultCmd = s.faultCmd := rfl
@[simp] theorem State.respond_gfM (r : Response) : (s.respond r).gfM = s.gfM := rfl
@[simp] theorem State.respond_frozen (r : Response) : (s.respond r).frozen = s.frozen := rfl
@[simp] theorem State.respond_emsaMode (r : Response) : (s.respond r).emsaMode = s.emsaMode := rfl
@[simp] theorem State.respond_emsaExpect (r : Response) : (s.respond r).emsaExpect = s.emsaExpect := rfl
@[simp] theorem State.respond_emsaSrc (r : Response) : (s.respond r).emsaSrc = s.emsaSrc := rfl
@[simp] theorem State.respond_emsaLen (r : Response) : (s.respond r).emsaLen = s.emsaLen := rfl
@[simp] theorem State.respond_emsaDst (r : Response) : (s.respond r).emsaDst = s.emsaDst := rfl
@[simp] theorem State.respond_emsaBits (r : Response) : (s.respond r).emsaBits = s.emsaBits := rfl
@[simp] theorem State.respond_emsaAux (r : Response) : (s.respond r).emsaAux = s.emsaAux := rfl
@[simp] theorem State.respond_emsaAuxLen (r : Response) : (s.respond r).emsaAuxLen = s.emsaAuxLen := rfl
@[simp] theorem State.respond_emsaOutLen (r : Response) : (s.respond r).emsaOutLen = s.emsaOutLen := rfl
@[simp] theorem State.respond_emsaResult (r : Response) : (s.respond r).emsaResult = s.emsaResult := rfl
@[simp] theorem State.respond_pending (r : Response) : (s.respond r).pending = s.pending := rfl
@[simp] theorem State.respond_hashId (r : Response) : (s.respond r).hashId = s.hashId := rfl
@[simp] theorem State.respond_hashName (r : Response) : (s.respond r).hashName = s.hashName := rfl
@[simp] theorem State.respond_inputs (r : Response) : (s.respond r).inputs = s.inputs := rfl
@[simp] theorem State.respond_responses (r : Response) : (s.respond r).responses = s.responses ++ [r] := rfl
@[simp] theorem State.respond_index (r : Response) : (s.respond r).index = s.index := rfl
@[simp] theorem State.respond_params (r : Response) : (s.respond r).params = s.params := rfl

/-! ### `latchError` -/

@[simp] theorem State.latchError_x (c : Status) (w : Word) : (s.latchError c w).x = s.x := rfl
@[simp] theorem State.latchError_xWritten (c : Status) (w : Word) : (s.latchError c w).xWritten = s.xWritten := rfl
@[simp] theorem State.latchError_buf (c : Status) (w : Word) : (s.latchError c w).buf = s.buf := rfl
@[simp] theorem State.latchError_cause (c : Status) (w : Word) : (s.latchError c w).cause = c.code.setWidth 32 := rfl
@[simp] theorem State.latchError_faultCmd (c : Status) (w : Word) : (s.latchError c w).faultCmd = w := rfl
@[simp] theorem State.latchError_gfM (c : Status) (w : Word) : (s.latchError c w).gfM = s.gfM := rfl
@[simp] theorem State.latchError_frozen (c : Status) (w : Word) : (s.latchError c w).frozen = s.frozen := rfl
@[simp] theorem State.latchError_emsaMode (c : Status) (w : Word) : (s.latchError c w).emsaMode = s.emsaMode := rfl
@[simp] theorem State.latchError_emsaExpect (c : Status) (w : Word) : (s.latchError c w).emsaExpect = s.emsaExpect := rfl
@[simp] theorem State.latchError_emsaSrc (c : Status) (w : Word) : (s.latchError c w).emsaSrc = s.emsaSrc := rfl
@[simp] theorem State.latchError_emsaLen (c : Status) (w : Word) : (s.latchError c w).emsaLen = s.emsaLen := rfl
@[simp] theorem State.latchError_emsaDst (c : Status) (w : Word) : (s.latchError c w).emsaDst = s.emsaDst := rfl
@[simp] theorem State.latchError_emsaBits (c : Status) (w : Word) : (s.latchError c w).emsaBits = s.emsaBits := rfl
@[simp] theorem State.latchError_emsaAux (c : Status) (w : Word) : (s.latchError c w).emsaAux = s.emsaAux := rfl
@[simp] theorem State.latchError_emsaAuxLen (c : Status) (w : Word) : (s.latchError c w).emsaAuxLen = s.emsaAuxLen := rfl
@[simp] theorem State.latchError_emsaOutLen (c : Status) (w : Word) : (s.latchError c w).emsaOutLen = s.emsaOutLen := rfl
@[simp] theorem State.latchError_emsaResult (c : Status) (w : Word) : (s.latchError c w).emsaResult = s.emsaResult := rfl
@[simp] theorem State.latchError_pending (c : Status) (w : Word) : (s.latchError c w).pending = s.pending := rfl
@[simp] theorem State.latchError_hashId (c : Status) (w : Word) : (s.latchError c w).hashId = s.hashId := rfl
@[simp] theorem State.latchError_hashName (c : Status) (w : Word) : (s.latchError c w).hashName = s.hashName := rfl
@[simp] theorem State.latchError_inputs (c : Status) (w : Word) : (s.latchError c w).inputs = s.inputs := rfl
@[simp] theorem State.latchError_responses (c : Status) (w : Word) : (s.latchError c w).responses = s.responses := rfl
@[simp] theorem State.latchError_index (c : Status) (w : Word) : (s.latchError c w).index = s.index := rfl
@[simp] theorem State.latchError_params (c : Status) (w : Word) : (s.latchError c w).params = s.params := rfl

/-! ### `clearError` -/

@[simp] theorem State.clearError_x : (s.clearError).x = s.x := rfl
@[simp] theorem State.clearError_xWritten : (s.clearError).xWritten = s.xWritten := rfl
@[simp] theorem State.clearError_buf : (s.clearError).buf = s.buf := rfl
@[simp] theorem State.clearError_cause : (s.clearError).cause = 0 := rfl
@[simp] theorem State.clearError_faultCmd : (s.clearError).faultCmd = 0 := rfl
@[simp] theorem State.clearError_gfM : (s.clearError).gfM = s.gfM := rfl
@[simp] theorem State.clearError_frozen : (s.clearError).frozen = s.frozen := rfl
@[simp] theorem State.clearError_emsaMode : (s.clearError).emsaMode = s.emsaMode := rfl
@[simp] theorem State.clearError_emsaExpect : (s.clearError).emsaExpect = s.emsaExpect := rfl
@[simp] theorem State.clearError_emsaSrc : (s.clearError).emsaSrc = s.emsaSrc := rfl
@[simp] theorem State.clearError_emsaLen : (s.clearError).emsaLen = s.emsaLen := rfl
@[simp] theorem State.clearError_emsaDst : (s.clearError).emsaDst = s.emsaDst := rfl
@[simp] theorem State.clearError_emsaBits : (s.clearError).emsaBits = s.emsaBits := rfl
@[simp] theorem State.clearError_emsaAux : (s.clearError).emsaAux = s.emsaAux := rfl
@[simp] theorem State.clearError_emsaAuxLen : (s.clearError).emsaAuxLen = s.emsaAuxLen := rfl
@[simp] theorem State.clearError_emsaOutLen : (s.clearError).emsaOutLen = s.emsaOutLen := rfl
@[simp] theorem State.clearError_emsaResult : (s.clearError).emsaResult = s.emsaResult := rfl
@[simp] theorem State.clearError_pending : (s.clearError).pending = s.pending := rfl
@[simp] theorem State.clearError_hashId : (s.clearError).hashId = s.hashId := rfl
@[simp] theorem State.clearError_hashName : (s.clearError).hashName = s.hashName := rfl
@[simp] theorem State.clearError_inputs : (s.clearError).inputs = s.inputs := rfl
@[simp] theorem State.clearError_responses : (s.clearError).responses = s.responses := rfl
@[simp] theorem State.clearError_index : (s.clearError).index = s.index := rfl
@[simp] theorem State.clearError_params : (s.clearError).params = s.params := rfl

/-! ### `takeInput` -/

@[simp] theorem State.takeInput_x (rest : List HostAction) : (s.takeInput rest).x = s.x := rfl
@[simp] theorem State.takeInput_xWritten (rest : List HostAction) : (s.takeInput rest).xWritten = s.xWritten := rfl
@[simp] theorem State.takeInput_buf (rest : List HostAction) : (s.takeInput rest).buf = s.buf := rfl
@[simp] theorem State.takeInput_cause (rest : List HostAction) : (s.takeInput rest).cause = s.cause := rfl
@[simp] theorem State.takeInput_faultCmd (rest : List HostAction) : (s.takeInput rest).faultCmd = s.faultCmd := rfl
@[simp] theorem State.takeInput_gfM (rest : List HostAction) : (s.takeInput rest).gfM = s.gfM := rfl
@[simp] theorem State.takeInput_frozen (rest : List HostAction) : (s.takeInput rest).frozen = s.frozen := rfl
@[simp] theorem State.takeInput_emsaMode (rest : List HostAction) : (s.takeInput rest).emsaMode = s.emsaMode := rfl
@[simp] theorem State.takeInput_emsaExpect (rest : List HostAction) : (s.takeInput rest).emsaExpect = s.emsaExpect := rfl
@[simp] theorem State.takeInput_emsaSrc (rest : List HostAction) : (s.takeInput rest).emsaSrc = s.emsaSrc := rfl
@[simp] theorem State.takeInput_emsaLen (rest : List HostAction) : (s.takeInput rest).emsaLen = s.emsaLen := rfl
@[simp] theorem State.takeInput_emsaDst (rest : List HostAction) : (s.takeInput rest).emsaDst = s.emsaDst := rfl
@[simp] theorem State.takeInput_emsaBits (rest : List HostAction) : (s.takeInput rest).emsaBits = s.emsaBits := rfl
@[simp] theorem State.takeInput_emsaAux (rest : List HostAction) : (s.takeInput rest).emsaAux = s.emsaAux := rfl
@[simp] theorem State.takeInput_emsaAuxLen (rest : List HostAction) : (s.takeInput rest).emsaAuxLen = s.emsaAuxLen := rfl
@[simp] theorem State.takeInput_emsaOutLen (rest : List HostAction) : (s.takeInput rest).emsaOutLen = s.emsaOutLen := rfl
@[simp] theorem State.takeInput_emsaResult (rest : List HostAction) : (s.takeInput rest).emsaResult = s.emsaResult := rfl
@[simp] theorem State.takeInput_pending (rest : List HostAction) : (s.takeInput rest).pending = s.pending := rfl
@[simp] theorem State.takeInput_hashId (rest : List HostAction) : (s.takeInput rest).hashId = s.hashId := rfl
@[simp] theorem State.takeInput_hashName (rest : List HostAction) : (s.takeInput rest).hashName = s.hashName := rfl
@[simp] theorem State.takeInput_inputs (rest : List HostAction) : (s.takeInput rest).inputs = rest := rfl
@[simp] theorem State.takeInput_responses (rest : List HostAction) : (s.takeInput rest).responses = s.responses := rfl
@[simp] theorem State.takeInput_index (rest : List HostAction) : (s.takeInput rest).index = s.index := rfl
@[simp] theorem State.takeInput_params (rest : List HostAction) : (s.takeInput rest).params = s.params := rfl

/-! ### `countCommand` -/

@[simp] theorem State.countCommand_x : (s.countCommand).x = s.x := rfl
@[simp] theorem State.countCommand_xWritten : (s.countCommand).xWritten = s.xWritten := rfl
@[simp] theorem State.countCommand_buf : (s.countCommand).buf = s.buf := rfl
@[simp] theorem State.countCommand_cause : (s.countCommand).cause = s.cause := rfl
@[simp] theorem State.countCommand_faultCmd : (s.countCommand).faultCmd = s.faultCmd := rfl
@[simp] theorem State.countCommand_gfM : (s.countCommand).gfM = s.gfM := rfl
@[simp] theorem State.countCommand_frozen : (s.countCommand).frozen = s.frozen := rfl
@[simp] theorem State.countCommand_emsaMode : (s.countCommand).emsaMode = s.emsaMode := rfl
@[simp] theorem State.countCommand_emsaExpect : (s.countCommand).emsaExpect = s.emsaExpect := rfl
@[simp] theorem State.countCommand_emsaSrc : (s.countCommand).emsaSrc = s.emsaSrc := rfl
@[simp] theorem State.countCommand_emsaLen : (s.countCommand).emsaLen = s.emsaLen := rfl
@[simp] theorem State.countCommand_emsaDst : (s.countCommand).emsaDst = s.emsaDst := rfl
@[simp] theorem State.countCommand_emsaBits : (s.countCommand).emsaBits = s.emsaBits := rfl
@[simp] theorem State.countCommand_emsaAux : (s.countCommand).emsaAux = s.emsaAux := rfl
@[simp] theorem State.countCommand_emsaAuxLen : (s.countCommand).emsaAuxLen = s.emsaAuxLen := rfl
@[simp] theorem State.countCommand_emsaOutLen : (s.countCommand).emsaOutLen = s.emsaOutLen := rfl
@[simp] theorem State.countCommand_emsaResult : (s.countCommand).emsaResult = s.emsaResult := rfl
@[simp] theorem State.countCommand_pending : (s.countCommand).pending = s.pending := rfl
@[simp] theorem State.countCommand_hashId : (s.countCommand).hashId = s.hashId := rfl
@[simp] theorem State.countCommand_hashName : (s.countCommand).hashName = s.hashName := rfl
@[simp] theorem State.countCommand_inputs : (s.countCommand).inputs = s.inputs := rfl
@[simp] theorem State.countCommand_responses : (s.countCommand).responses = s.responses := rfl
@[simp] theorem State.countCommand_index : (s.countCommand).index = s.index + 1 := rfl
@[simp] theorem State.countCommand_params : (s.countCommand).params = s.params := rfl

/-! ### `resetBlock` -/

@[simp] theorem State.resetBlock_x : (s.resetBlock).x = State.reset.x := rfl
@[simp] theorem State.resetBlock_xWritten : (s.resetBlock).xWritten = State.reset.xWritten := rfl
@[simp] theorem State.resetBlock_buf : (s.resetBlock).buf = State.reset.buf := rfl
@[simp] theorem State.resetBlock_cause : (s.resetBlock).cause = State.reset.cause := rfl
@[simp] theorem State.resetBlock_faultCmd : (s.resetBlock).faultCmd = State.reset.faultCmd := rfl
@[simp] theorem State.resetBlock_gfM : (s.resetBlock).gfM = State.reset.gfM := rfl
@[simp] theorem State.resetBlock_frozen : (s.resetBlock).frozen = State.reset.frozen := rfl
@[simp] theorem State.resetBlock_emsaMode : (s.resetBlock).emsaMode = State.reset.emsaMode := rfl
@[simp] theorem State.resetBlock_emsaExpect : (s.resetBlock).emsaExpect = State.reset.emsaExpect := rfl
@[simp] theorem State.resetBlock_emsaSrc : (s.resetBlock).emsaSrc = State.reset.emsaSrc := rfl
@[simp] theorem State.resetBlock_emsaLen : (s.resetBlock).emsaLen = State.reset.emsaLen := rfl
@[simp] theorem State.resetBlock_emsaDst : (s.resetBlock).emsaDst = State.reset.emsaDst := rfl
@[simp] theorem State.resetBlock_emsaBits : (s.resetBlock).emsaBits = State.reset.emsaBits := rfl
@[simp] theorem State.resetBlock_emsaAux : (s.resetBlock).emsaAux = State.reset.emsaAux := rfl
@[simp] theorem State.resetBlock_emsaAuxLen : (s.resetBlock).emsaAuxLen = State.reset.emsaAuxLen := rfl
@[simp] theorem State.resetBlock_emsaOutLen : (s.resetBlock).emsaOutLen = State.reset.emsaOutLen := rfl
@[simp] theorem State.resetBlock_emsaResult : (s.resetBlock).emsaResult = State.reset.emsaResult := rfl
@[simp] theorem State.resetBlock_pending : (s.resetBlock).pending = State.reset.pending := rfl
@[simp] theorem State.resetBlock_hashId : (s.resetBlock).hashId = State.reset.hashId := rfl
@[simp] theorem State.resetBlock_hashName : (s.resetBlock).hashName = State.reset.hashName := rfl
@[simp] theorem State.resetBlock_inputs : (s.resetBlock).inputs = s.inputs := rfl
@[simp] theorem State.resetBlock_responses : (s.resetBlock).responses = s.responses := rfl
@[simp] theorem State.resetBlock_index : (s.resetBlock).index = s.index := rfl
@[simp] theorem State.resetBlock_params : (s.resetBlock).params = s.params := rfl

/-! ### `withFetchWord` -/

@[simp] theorem State.withFetchWord_x (n w : Nat) : (s.withFetchWord n w).x = s.x := rfl
@[simp] theorem State.withFetchWord_xWritten (n w : Nat) : (s.withFetchWord n w).xWritten = s.xWritten := rfl
@[simp] theorem State.withFetchWord_buf (n w : Nat) : (s.withFetchWord n w).buf = s.buf := rfl
@[simp] theorem State.withFetchWord_cause (n w : Nat) : (s.withFetchWord n w).cause = s.cause := rfl
@[simp] theorem State.withFetchWord_faultCmd (n w : Nat) : (s.withFetchWord n w).faultCmd = s.faultCmd := rfl
@[simp] theorem State.withFetchWord_gfM (n w : Nat) : (s.withFetchWord n w).gfM = s.gfM := rfl
@[simp] theorem State.withFetchWord_frozen (n w : Nat) : (s.withFetchWord n w).frozen = s.frozen := rfl
@[simp] theorem State.withFetchWord_emsaMode (n w : Nat) : (s.withFetchWord n w).emsaMode = s.emsaMode := rfl
@[simp] theorem State.withFetchWord_emsaExpect (n w : Nat) : (s.withFetchWord n w).emsaExpect = s.emsaExpect := rfl
@[simp] theorem State.withFetchWord_emsaSrc (n w : Nat) : (s.withFetchWord n w).emsaSrc = s.emsaSrc := rfl
@[simp] theorem State.withFetchWord_emsaLen (n w : Nat) : (s.withFetchWord n w).emsaLen = s.emsaLen := rfl
@[simp] theorem State.withFetchWord_emsaDst (n w : Nat) : (s.withFetchWord n w).emsaDst = s.emsaDst := rfl
@[simp] theorem State.withFetchWord_emsaBits (n w : Nat) : (s.withFetchWord n w).emsaBits = s.emsaBits := rfl
@[simp] theorem State.withFetchWord_emsaAux (n w : Nat) : (s.withFetchWord n w).emsaAux = s.emsaAux := rfl
@[simp] theorem State.withFetchWord_emsaAuxLen (n w : Nat) : (s.withFetchWord n w).emsaAuxLen = s.emsaAuxLen := rfl
@[simp] theorem State.withFetchWord_emsaOutLen (n w : Nat) : (s.withFetchWord n w).emsaOutLen = s.emsaOutLen := rfl
@[simp] theorem State.withFetchWord_emsaResult (n w : Nat) : (s.withFetchWord n w).emsaResult = s.emsaResult := rfl
@[simp] theorem State.withFetchWord_pending (n w : Nat) : (s.withFetchWord n w).pending = s.pending := rfl
@[simp] theorem State.withFetchWord_hashId (n w : Nat) : (s.withFetchWord n w).hashId = s.hashId := rfl
@[simp] theorem State.withFetchWord_hashName (n w : Nat) : (s.withFetchWord n w).hashName = s.hashName := rfl
@[simp] theorem State.withFetchWord_inputs (n w : Nat) : (s.withFetchWord n w).inputs = .command (BitVec.ofNat 32 (w % 2 ^ n)) :: s.inputs := rfl
@[simp] theorem State.withFetchWord_responses (n w : Nat) : (s.withFetchWord n w).responses = s.responses := rfl
@[simp] theorem State.withFetchWord_index (n w : Nat) : (s.withFetchWord n w).index = s.index := rfl
@[simp] theorem State.withFetchWord_params (n w : Nat) : (s.withFetchWord n w).params = s.params := rfl

/-! ### Accessors that see only some fields -/

/-- The field instance depends on GF_M and the parameters only. -/
theorem State.field_congr {s t : State} (hm : t.gfM = s.gfM) (hp : t.params = s.params) : t.field = s.field := by
  simp [State.field, hm, hp]

@[simp] theorem State.writeReg_field (r : Reg) (v : Word) : (s.writeReg r v).field = s.field := rfl
@[simp] theorem State.writeReg_pendingCap (r : Reg) (v : Word) : (s.writeReg r v).pendingCap = s.pendingCap := rfl
@[simp] theorem State.setBuf_field (m : Memory) : (s.setBuf m).field = s.field := rfl
@[simp] theorem State.setBuf_readReg (m : Memory) (q : Reg) : (s.setBuf m).readReg q = s.readReg q := rfl
@[simp] theorem State.setBuf_pendingCap (m : Memory) : (s.setBuf m).pendingCap = s.pendingCap := rfl
@[simp] theorem State.setPending_field (bs : List Byte) : (s.setPending bs).field = s.field := rfl
@[simp] theorem State.setPending_readReg (bs : List Byte) (q : Reg) : (s.setPending bs).readReg q = s.readReg q := rfl
@[simp] theorem State.setPending_pendingCap (bs : List Byte) : (s.setPending bs).pendingCap = s.pendingCap := rfl
@[simp] theorem State.setHashId_field (bs : List Byte) : (s.setHashId bs).field = s.field := rfl
@[simp] theorem State.setHashId_readReg (bs : List Byte) (q : Reg) : (s.setHashId bs).readReg q = s.readReg q := rfl
@[simp] theorem State.setHashId_pendingCap (bs : List Byte) : (s.setHashId bs).pendingCap = s.pendingCap := rfl
@[simp] theorem State.setHashName_field (bs : List Byte) : (s.setHashName bs).field = s.field := rfl
@[simp] theorem State.setHashName_readReg (bs : List Byte) (q : Reg) : (s.setHashName bs).readReg q = s.readReg q := rfl
@[simp] theorem State.setHashName_pendingCap (bs : List Byte) : (s.setHashName bs).pendingCap = s.pendingCap := rfl
@[simp] theorem State.setOutLen_field (n : Nat) : (s.setOutLen n).field = s.field := rfl
@[simp] theorem State.setOutLen_readReg (n : Nat) (q : Reg) : (s.setOutLen n).readReg q = s.readReg q := rfl
@[simp] theorem State.setOutLen_pendingCap (n : Nat) : (s.setOutLen n).pendingCap = s.pendingCap := rfl
@[simp] theorem State.setResult_field (b : Bool) : (s.setResult b).field = s.field := rfl
@[simp] theorem State.setResult_readReg (b : Bool) (q : Reg) : (s.setResult b).readReg q = s.readReg q := rfl
@[simp] theorem State.setResult_pendingCap (b : Bool) : (s.setResult b).pendingCap = s.pendingCap := rfl
@[simp] theorem State.freeze_field : (s.freeze).field = s.field := rfl
@[simp] theorem State.freeze_readReg (q : Reg) : (s.freeze).readReg q = s.readReg q := rfl
@[simp] theorem State.freeze_pendingCap : (s.freeze).pendingCap = s.pendingCap := rfl
@[simp] theorem State.respond_field (r : Response) : (s.respond r).field = s.field := rfl
@[simp] theorem State.respond_readReg (r : Response) (q : Reg) : (s.respond r).readReg q = s.readReg q := rfl
@[simp] theorem State.respond_pendingCap (r : Response) : (s.respond r).pendingCap = s.pendingCap := rfl
@[simp] theorem State.latchError_field (c : Status) (w : Word) : (s.latchError c w).field = s.field := rfl
@[simp] theorem State.latchError_readReg (c : Status) (w : Word) (q : Reg) : (s.latchError c w).readReg q = s.readReg q := rfl
@[simp] theorem State.latchError_pendingCap (c : Status) (w : Word) : (s.latchError c w).pendingCap = s.pendingCap := rfl
@[simp] theorem State.clearError_field : (s.clearError).field = s.field := rfl
@[simp] theorem State.clearError_readReg (q : Reg) : (s.clearError).readReg q = s.readReg q := rfl
@[simp] theorem State.clearError_pendingCap : (s.clearError).pendingCap = s.pendingCap := rfl
@[simp] theorem State.takeInput_field (rest : List HostAction) : (s.takeInput rest).field = s.field := rfl
@[simp] theorem State.takeInput_readReg (rest : List HostAction) (q : Reg) : (s.takeInput rest).readReg q = s.readReg q := rfl
@[simp] theorem State.takeInput_pendingCap (rest : List HostAction) : (s.takeInput rest).pendingCap = s.pendingCap := rfl
@[simp] theorem State.countCommand_field : (s.countCommand).field = s.field := rfl
@[simp] theorem State.countCommand_readReg (q : Reg) : (s.countCommand).readReg q = s.readReg q := rfl
@[simp] theorem State.countCommand_pendingCap : (s.countCommand).pendingCap = s.pendingCap := rfl
@[simp] theorem State.withFetchWord_field (n w : Nat) : (s.withFetchWord n w).field = s.field := rfl
@[simp] theorem State.withFetchWord_readReg (n w : Nat) (q : Reg) : (s.withFetchWord n w).readReg q = s.readReg q := rfl
@[simp] theorem State.withFetchWord_pendingCap (n w : Nat) : (s.withFetchWord n w).pendingCap = s.pendingCap := rfl

/-! ### X registers -/

/-- A read of the register just written gives the value. -/
@[simp] theorem State.writeReg_readReg_same (r : Reg) (v : Word) : (s.writeReg r v).readReg r = v := by
  simp [State.readReg]

/-- A write leaves every other register alone. -/
theorem State.writeReg_readReg_other {r q : Reg} (v : Word) (h : q ≠ r) :
    (s.writeReg r v).readReg q = s.readReg q := by
  have : r.val ≠ q.val := fun e => h (Fin.ext e.symm)
  simp [State.readReg, Vector.getElem_set_ne, this]

/-- The mark of the register just written is set (R12). -/
theorem State.writeReg_marks (r : Reg) (v : Word) : (s.writeReg r v).xWritten[r.val] = true := by simp

/-- The mark of every other register stays. -/
theorem State.writeReg_marks_other {r q : Reg} (v : Word) (h : q ≠ r) :
    (s.writeReg r v).xWritten[q.val] = s.xWritten[q.val] := by
  have : r.val ≠ q.val := fun e => h (Fin.ext e.symm)
  simp [Vector.getElem_set_ne, this]

end Sys2Proof.Machine
end

