-- ==== Sys2Proof/Laws/Ops.lean ====
section
/-! SUPPORT. For each shared operation of the machine one lemma that says once everything it can do. A
proof about a command cites these and unfolds none of the operations. -/

namespace Sys2Proof.Machine

/-! ### Ends of a command -/

/-- `done` answers OK. -/
theorem done_eq_next {s t : State} : done s = .next t ↔ t = s.respond (.status .ok) := by
  constructor
  · intro h; injection h with h; exact h.symm
  · rintro rfl; rfl

/-- Error entry (R203). -/
theorem raise_eq_next {i : Instr} {c : Status} {s t : State} :
    raise i c s = .next t ↔ t = (s.latchError c (encode i)).respond (.status c) := by
  constructor
  · intro h; injection h with h; exact h.symm
  · rintro rfl; rfl

/-- `raise` never stops the machine. -/
theorem raise_next (i : Instr) (c : Status) (s : State) :
    raise i c s = .next ((s.latchError c (encode i)).respond (.status c)) := rfl

/-- The code of a status is 0 to 8 (R201). -/
theorem Status.code_le (c : Status) : c.code.toNat ≤ 8 := by cases c <;> decide

/-- Only OK has the code 0 (R201). -/
theorem Status.code_eq_zero {c : Status} : c.code = 0 ↔ c = .ok := by cases c <;> decide

/-! ### Field commands -/

/-- What a value written to rd leads to. -/
theorem writeResult_ok (rd : Reg) (v : Int) (s : State) :
    writeResult rd (.ok v) s = .next ((s.writeReg rd (u32 v)).respond (.status .ok)) := rfl

/-- An undefined value ends the run (R210). -/
theorem writeResult_error (rd : Reg) (e : Fault) (s : State) : writeResult rd (.error e) s = .fault e := rfl

/-- Everything a one-source field command can do when it answers a next state. -/
theorem fieldUnary_next {i : Instr} {rd rs1 : Reg} {op : Field → Word → Except Fault Int} {s t : State}
    (h : fieldUnary i rd rs1 op s = .next t) :
    (s.frozen = false ∧ t = (s.latchError .illegalState (encode i)).respond (.status .illegalState)) ∨
    (s.frozen = true ∧ ∃ v, op s.field (s.readReg rs1) = .ok v ∧
      t = (s.writeReg rd (u32 v)).respond (.status .ok)) := by
  unfold fieldUnary at h
  split at h
  · rename_i hf
    refine .inr ⟨hf, ?_⟩
    cases hv : op s.field (s.readReg rs1) with
    | error e => rw [hv] at h; cases h
    | ok v => rw [hv] at h; exact ⟨v, rfl, done_eq_next.mp h⟩
  · rename_i hf
    exact .inl ⟨by simpa using hf, raise_eq_next.mp h⟩

/-- Everything a two-source field command can do when it answers a next state. -/
theorem fieldBinary_next {i : Instr} {rd rs1 rs2 : Reg} {op : Field → Word → Word → Except Fault Int}
    {s t : State} (h : fieldBinary i rd rs1 rs2 op s = .next t) :
    (s.frozen = false ∧ t = (s.latchError .illegalState (encode i)).respond (.status .illegalState)) ∨
    (s.frozen = true ∧ ∃ v, op s.field (s.readReg rs1) (s.readReg rs2) = .ok v ∧
      t = (s.writeReg rd (u32 v)).respond (.status .ok)) := by
  unfold fieldBinary at h
  split at h
  · rename_i hf
    refine .inr ⟨hf, ?_⟩
    cases hv : op s.field (s.readReg rs1) (s.readReg rs2) with
    | error e => rw [hv] at h; cases h
    | ok v => rw [hv] at h; exact ⟨v, rfl, done_eq_next.mp h⟩
  · rename_i hf
    exact .inl ⟨by simpa using hf, raise_eq_next.mp h⟩

/-! ### Commands over BUF -/

/-- The range check is the exact sum (R41). -/
theorem inBuf_iff {a n : Nat} : inBuf a n = true ↔ a + n ≤ Config.bufSize := by simp [inBuf]

/-- `withBytes` goes on with the bytes of the range, or is undefined (R42). -/
theorem withBytes_next {a n : Nat} {k : List Byte → State → Result} {s t : State}
    (h : withBytes a n k s = .next t) : ∃ bs, Memory.readRange s.buf a n = some bs ∧ k bs s = .next t := by
  unfold withBytes at h
  split at h
  · rename_i bs hb; exact ⟨bs, hb, h⟩
  · cases h

/-- `writeOut` stores the bytes, records their number and answers OK. -/
theorem writeOut_next {a : Nat} {bs : List Byte} {s t : State} :
    writeOut a bs s = .next t ↔
      t = ((s.setBuf (Memory.writeRange s.buf a bs)).setOutLen bs.length).respond (.status .ok) := done_eq_next

/-- Everything EMSA.SETID and EMSA.SETNAME can do when they answer a next state (R96, R97). -/
theorem loadStore_next {i : Instr} {cap : Nat} {store : State → List Byte → State} {s t : State}
    (h : loadStore i cap store s = .next t) :
    (∃ c : Status, c ≠ .ok ∧ t = (s.latchError c (encode i)).respond (.status c)) ∨
    (s.emsaBusy = false ∧ s.emsaSrc.toNat + s.emsaLen.toNat ≤ Config.bufSize ∧ s.emsaLen.toNat ≤ cap ∧
      ∃ bs, Memory.readRange s.buf s.emsaSrc.toNat s.emsaLen.toNat = some bs ∧
        t = (store s bs).respond (.status .ok)) := by
  unfold loadStore at h
  simp only at h
  split at h
  · exact .inl ⟨_, by decide, raise_eq_next.mp h⟩
  · split at h
    · exact .inl ⟨_, by decide, raise_eq_next.mp h⟩
    · split at h
      · exact .inl ⟨_, by decide, raise_eq_next.mp h⟩
      · rename_i h1 h2 h3
        obtain ⟨bs, hb, hk⟩ := withBytes_next h
        refine .inr ⟨by simpa using h1, inBuf_iff.mp (by simpa using h2), by omega, bs, hb, done_eq_next.mp hk⟩

/-! ### CSR writes -/

/-- Everything CSRW and CSRWI can do: raise IllegalCsr, IllegalState or BadConfig, or write a writable,
unlocked CSR with a legal value (R84). -/
theorem csrWrite_next {i : Instr} {n : BitVec 8} {v : Word} {s t : State} (h : csrWrite i n v s = .next t) :
    (∃ c : Status, (c = .illegalCsr ∨ c = .illegalState ∨ c = .badConfig) ∧
      t = (s.latchError c (encode i)).respond (.status c)) ∨
    (∃ c, Csr.ofNumber n = some c ∧ c.readOnly = false ∧ s.csrLocked c = false ∧ csrValueBad c v = false ∧
      t = (s.writeCsr c v).respond (.status .ok)) := by
  unfold csrWrite at h
  split at h
  · exact .inl ⟨_, .inl rfl, raise_eq_next.mp h⟩
  · rename_i c hc
    split at h
    · exact .inl ⟨_, .inl rfl, raise_eq_next.mp h⟩
    · split at h
      · exact .inl ⟨_, .inr (.inl rfl), raise_eq_next.mp h⟩
      · split at h
        · exact .inl ⟨_, .inr (.inr rfl), raise_eq_next.mp h⟩
        · rename_i h1 h2 h3
          exact .inr ⟨c, hc, by simpa using h1, by simpa using h2, by simpa using h3, done_eq_next.mp h⟩

/-- CSRW and CSRWI never stop the machine. -/
theorem csrWrite_completes (i : Instr) (n : BitVec 8) (v : Word) (s : State) :
    ∃ t, csrWrite i n v s = .next t := by
  unfold csrWrite
  split
  · exact ⟨_, rfl⟩
  · split
    · exact ⟨_, rfl⟩
    · split
      · exact ⟨_, rfl⟩
      · split <;> exact ⟨_, rfl⟩

/-- A CSR write reaches no X register, no byte of BUF, no store and no port. -/
theorem State.writeCsr_frame (s : State) (c : Csr) (v : Word) :
    (s.writeCsr c v).x = s.x ∧ (s.writeCsr c v).xWritten = s.xWritten ∧ (s.writeCsr c v).buf = s.buf ∧
    (s.writeCsr c v).frozen = s.frozen ∧ (s.writeCsr c v).emsaOutLen = s.emsaOutLen ∧
    (s.writeCsr c v).emsaResult = s.emsaResult ∧ (s.writeCsr c v).pending = s.pending ∧
    (s.writeCsr c v).hashId = s.hashId ∧ (s.writeCsr c v).hashName = s.hashName ∧
    (s.writeCsr c v).inputs = s.inputs ∧ (s.writeCsr c v).responses = s.responses ∧
    (s.writeCsr c v).index = s.index ∧ (s.writeCsr c v).params = s.params := by
  cases c <;> exact ⟨rfl, rfl, rfl, rfl, rfl, rfl, rfl, rfl, rfl, rfl, rfl, rfl, rfl⟩

/-! ### The padding block -/

/-- The Failure condition of R101: ceil(bits / 8) < len(hash_id) + n + 11. -/
theorem emsaEncode_eq_none {hashId digest : List Byte} {bits : Nat} :
    emsaEncode hashId digest bits = none ↔ outputLen bits < hashId.length + digest.length + 11 := by
  unfold emsaEncode psLen
  simp only [List.length_append, Config.psMin]
  split
  · simp only [true_iff]; omega
  · simp only [reduceCtorEq, false_iff]; omega

/-- A block has exactly output_len bytes (R91). -/
theorem emsaEncode_length {hashId digest block : List Byte} {bits : Nat}
    (h : emsaEncode hashId digest bits = some block) : block.length = outputLen bits := by
  unfold emsaEncode at h
  split at h
  · cases h
  · rename_i hp
    injection h with h
    subst h
    unfold psLen at *
    simp only [List.length_append, List.length_replicate, List.length_cons, List.length_nil, Config.psMin] at *
    omega

/-- The digest has exactly HASH_OUT_LEN bytes (10_state.md R31 (b)). -/
@[simp] theorem State.hash_length (s : State) (msg : List Byte) : (s.hash msg).length = s.hashOutLen := by
  simp [State.hash]

/-- HASH_OUT_LEN is 1 to 4096 (R5). -/
theorem State.hashOutLen_bounds (s : State) : 1 ≤ s.hashOutLen ∧ s.hashOutLen ≤ 4096 := by
  have := s.params.hashOutLenPred.isLt
  unfold State.hashOutLen
  omega

/-! ### The field -/

/-- A next value of a chain of checks and lookups comes from a next value of its first link. -/
theorem except_bind_ok {α β : Type} {x : Except Fault α} {k : α → Except Fault β} {b : β} :
    (x >>= k) = .ok b ↔ ∃ a, x = .ok a ∧ k a = .ok b := by
  cases x with
  | error e => simp [bind, Except.bind]
  | ok a => simp [bind, Except.bind]

/-- ord + 1 = q. -/
theorem Field.ord_succ (f : Field) : f.ord + 1 = f.q := by
  have : 0 < f.q := Nat.two_pow_pos _
  unfold Field.ord
  omega

/-- The bitwise form of `reduce` is one folding step, for every degree of at most 32 (R123, R124 (a)). -/
theorem Field.reduce_eq_foldOnce {f : Field} (h : f.m ≤ 32) (d : Int) : f.reduce d = Safety.foldOnce f d := by
  unfold Field.reduce Safety.foldOnce
  have hlow : ((u32 d &&& BitVec.ofNat 32 f.ord).toNat : Int) = d % 2 ^ f.m := by
    have h1 : 2 ^ f.m ≤ 2 ^ 32 := Nat.pow_le_pow_right (by omega) h
    have hpos : 0 < 2 ^ f.m := Nat.two_pow_pos _
    have hord : f.ord % 2 ^ 32 = 2 ^ f.m - 1 := by
      unfold Field.ord Field.q
      exact Nat.mod_eq_of_lt (by omega)
    rw [BitVec.toNat_and, BitVec.toNat_ofNat, hord, Nat.and_two_pow_sub_one_eq_mod]
    have h2 : ((u32 d).toNat : Int) = d % 2 ^ 32 := by
      have hnn : 0 ≤ d % 2 ^ 32 := Int.emod_nonneg _ (by norm_num)
      simp only [u32, BitVec.toNat_ofInt]
      have : ((2 ^ 32 : Nat) : Int) = 2 ^ 32 := by norm_num
      rw [this]
      exact Int.toNat_of_nonneg hnn
    rw [Int.natCast_emod, h2]
    push_cast
    exact Int.emod_emod_of_dvd _ (pow_dvd_pow 2 h)
  rw [hlow, Int.shiftRight_eq_div_pow]
  push_cast
  rfl

end Sys2Proof.Machine
end

