-- ==== Sys2Proof/Laws/Exec.lean ====
section
/-! SUPPORT. What a command can do when it answers a next state, said once: an error entry, or one of the
twelve effects below followed by OK. A statement about every command goes through `exec_next`. -/

namespace Sys2Proof.Machine

open Sys2Proof.Safety

/-- The state a command leaves before it answers OK, by the shape of its effect. -/
inductive Effect (s : State) : Instr → State → Prop where
  /-- x[rd] is written; a command that needs the field instance had it. -/
  | reg {i : Instr} (rd : Reg) (v : Word) (field : needsField i = true → s.frozen = true)
      (plain : ∀ c, ¬writesCsr i c) (other : isEmsa i = false) (notReset : i ≠ .reset) (notInit : i ≠ .gfInit) :
      Effect s i (s.writeReg rd v)
  /-- A writable, unlocked CSR is written with a legal value (R84). -/
  | csr {i : Instr} (c : Csr) (v : Word) (names : writesCsr i c) (writable : c.readOnly = false)
      (unlocked : s.csrLocked c = false) (legal : csrValueBad c v = false) : Effect s i (s.writeCsr c v)
  /-- RESET (R86). -/
  | reset : Effect s .reset s.resetBlock
  /-- GF.INIT (R125). -/
  | init (fresh : s.frozen = false) (degree : 1 ≤ s.gfM.toNat ∧ s.gfM.toNat ≤ 16) : Effect s .gfInit s.freeze
  /-- GF.ENC (R191). -/
  | enc (rd rs1 rs2 : Reg) (a : Nat) (v : Half) (fits : a + 2 ≤ Config.bufSize) :
      Effect s (.gfEnc rd rs1 rs2) ((s.setBuf (Memory.writeRange s.buf a (be16Bytes v))).writeReg rd 2)
  /-- EMSA.UPDATE (R95). -/
  | update (bs : List Byte) (cap : s.pending.length + bs.length ≤ s.pendingCap) :
      Effect s .emsaUpdate (s.setPending (s.pending ++ bs))
  /-- EMSA.SETID (R96). -/
  | setid (bs : List Byte) (idle : s.pending = []) (cap : bs.length ≤ Config.idCap) :
      Effect s .emsaSetid (s.setHashId bs)
  /-- EMSA.SETNAME (R97). -/
  | setname (bs : List Byte) (idle : s.pending = []) (cap : bs.length ≤ Config.nameCap) :
      Effect s .emsaSetname (s.setHashName bs)
  /-- EMSA.RAWDATA (R98, R99). -/
  | rawdata (a : Nat) (bs : List Byte) (fits : a + bs.length ≤ Config.bufSize) :
      Effect s .emsaRawdata (((s.setPending []).setBuf (Memory.writeRange s.buf a bs)).setOutLen bs.length)
  /-- EMSA.ENCODE (R101). -/
  | encode (a : Nat) (bs : List Byte) (fits : a + bs.length ≤ Config.bufSize) :
      Effect s .emsaEncode (((s.setPending []).setBuf (Memory.writeRange s.buf a bs)).setOutLen bs.length)
  /-- EMSA.VERIFY (R104). -/
  | verify (result : Bool) : Effect s .emsaVerify ((s.setPending []).setResult result)
  /-- EMSA.NAME (R107). -/
  | name (a : Nat) (bs : List Byte) (fits : a + bs.length ≤ Config.bufSize) :
      Effect s .emsaName ((s.setBuf (Memory.writeRange s.buf a bs)).setOutLen bs.length)

/-- PENDING as a command that ends with status c leaves it: emptied by EMSA.RAWDATA with InvalidArgument and
EMSA.ENCODE with EncodingFailure (R93), kept by every other error. -/
def pendingAfterError (i : Instr) (c : Status) (s : State) : State :=
  if (i = .emsaRawdata ∧ c = .invalidArgument) ∨ (i = .emsaEncode ∧ c = .encodingFailure) then s.setPending []
  else s

/-- A command that answers a next state has raised one of its statuses, or had one of the effects and
answered OK. -/
def Outcome (i : Instr) (s t : State) : Prop :=
  (∃ c, c ∈ statusesOf i s ∧ (c = .illegalState ↔ IllegalStateCause i s) ∧
    t = ((pendingAfterError i c s).latchError c (encode i)).respond (.status c)) ∨
  (¬IllegalStateCause i s ∧ ∃ u, Effect s i u ∧ t = u.respond (.status .ok))

/-- What the outcome of a field command needs to know of the command. -/
theorem needsField_facts {i : Instr} (h : needsField i = true) (s : State) :
    (∀ c, ¬writesCsr i c) ∧ isEmsa i = false ∧ i ≠ .reset ∧ i ≠ .gfInit ∧ statusesOf i s = [.illegalState] ∧
      ∀ c, pendingAfterError i c s = s := by
  cases i <;> first | (exact ⟨fun _ => id, rfl, nofun, nofun, rfl, fun _ => rfl⟩) | cases h

/-- The two ends of a field command that answers a next state. -/
theorem outcome_of_field {i : Instr} {rd : Reg} {v : Int} {s t : State} (hn : needsField i = true)
    (h : (s.frozen = false ∧ t = (s.latchError .illegalState (encode i)).respond (.status .illegalState)) ∨
      (s.frozen = true ∧ t = (s.writeReg rd (u32 v)).respond (.status .ok))) : Outcome i s t := by
  obtain ⟨hw, he, hr, hi, hs, hp⟩ := needsField_facts hn s
  rcases h with ⟨hf, rfl⟩ | ⟨hf, rfl⟩
  · refine .inl ⟨.illegalState, ?_, ⟨fun _ => .inl ⟨hn, hf⟩, fun _ => rfl⟩, ?_⟩
    · rw [hs]; exact List.mem_singleton.mpr rfl
    · rw [hp]
  · refine .inr ⟨?_, _, .reg rd (u32 v) (fun _ => hf) hw he hr hi, rfl⟩
    rintro (⟨_, h1⟩ | ⟨h1, _⟩ | ⟨h1, _⟩ | ⟨h1 | h1, _⟩ | ⟨h1 | h1, _⟩)
    · simp_all
    · exact hi h1
    · exact hw _ h1
    · exact hw _ h1
    · exact hw _ h1
    · subst h1; cases he
    · subst h1; cases he

/-- The outcome of a one-source field command. -/
theorem outcome_of_fieldUnary {i : Instr} {rd rs1 : Reg} {op : Field → Word → Except Fault Int} {s t : State}
    (hn : needsField i = true) (h : fieldUnary i rd rs1 op s = .next t) : Outcome i s t := by
  rcases fieldUnary_next h with h | ⟨hf, v, -, ht⟩
  · exact outcome_of_field (rd := rd) (v := 0) hn (.inl h)
  · exact outcome_of_field hn (.inr ⟨hf, ht⟩)

/-- The outcome of a two-source field command. -/
theorem outcome_of_fieldBinary {i : Instr} {rd rs1 rs2 : Reg} {op : Field → Word → Word → Except Fault Int}
    {s t : State} (hn : needsField i = true) (h : fieldBinary i rd rs1 rs2 op s = .next t) : Outcome i s t := by
  rcases fieldBinary_next h with h | ⟨hf, v, -, ht⟩
  · exact outcome_of_field (rd := rd) (v := 0) hn (.inl h)
  · exact outcome_of_field hn (.inr ⟨hf, ht⟩)

/-- No cause of R206 names the command. -/
structure Plain (i : Instr) : Prop where
  field : needsField i = false
  init : i ≠ .gfInit
  csr : ∀ c, ¬writesCsr i c
  setid : i ≠ .emsaSetid
  setname : i ≠ .emsaSetname

/-- Such a command has no cause of IllegalState. -/
theorem Plain.noCause {i : Instr} (p : Plain i) (s : State) : ¬IllegalStateCause i s := by
  rintro (⟨h, _⟩ | ⟨h, _⟩ | ⟨h, _⟩ | ⟨h | h, _⟩ | ⟨h | h, _⟩)
  · rw [p.field] at h; cases h
  · exact p.init h
  · exact p.csr _ h
  · exact p.csr _ h
  · exact p.csr _ h
  · exact p.setid h
  · exact p.setname h

/-- Such a command has raised an error that leaves PENDING alone. -/
theorem Plain.raised {i : Instr} {s t : State} {c : Status} (p : Plain i) (h : raise i c s = .next t)
    (hc : c ∈ statusesOf i s) (hne : c ≠ .illegalState) (hp : pendingAfterError i c s = s) : Outcome i s t :=
  .inl ⟨c, hc, ⟨fun h => absurd h hne, fun h => absurd h (p.noCause s)⟩, by rw [hp]; exact raise_eq_next.mp h⟩

/-- Such a command has raised an error and emptied PENDING (R93). -/
theorem Plain.raisedAndEmptied {i : Instr} {s t : State} {c : Status} (p : Plain i)
    (h : raise i c (s.setPending []) = .next t) (hc : c ∈ statusesOf i s) (hne : c ≠ .illegalState)
    (hp : pendingAfterError i c s = s.setPending []) : Outcome i s t :=
  .inl ⟨c, hc, ⟨fun h => absurd h hne, fun h => absurd h (p.noCause s)⟩, by rw [hp]; exact raise_eq_next.mp h⟩

/-- Such a command has had its effect. -/
theorem Plain.ok {i : Instr} {s t u : State} (p : Plain i) (h : done u = .next t) (e : Effect s i u) : Outcome i s t :=
  .inr ⟨p.noCause s, _, e, done_eq_next.mp h⟩

/-- The outcome of a CSR write (R84). -/
theorem outcome_of_csrWrite {i : Instr} {n : BitVec 8} {v : Word} {s t : State} (h : csrWrite i n v s = .next t)
    (hn : needsField i = false) (hw : ∀ c, writesCsr i c ↔ Csr.ofNumber n = some c) (hi : i ≠ .gfInit)
    (h3 : i ≠ .emsaSetid) (h4 : i ≠ .emsaSetname) (hs : statusesOf i s = [.illegalCsr, .illegalState, .badConfig])
    (hp : ∀ c, pendingAfterError i c s = s) : Outcome i s t := by
  have key : IllegalStateCause i s ↔ ∃ c, Csr.ofNumber n = some c ∧ s.csrLocked c = true := by
    unfold IllegalStateCause; simp only [hw, hn, hi, h3, h4, false_and, or_false, false_or, Bool.false_eq_true]
    constructor
    · rintro (⟨h1, h2⟩ | ⟨h1 | h1, h2⟩)
      · exact ⟨_, h1, h2⟩
      · exact ⟨_, h1, by simpa [State.csrLocked, State.emsaBusy] using h2⟩
      · exact ⟨_, h1, by simpa [State.csrLocked, State.emsaBusy] using h2⟩
    · rintro ⟨c, h1, h2⟩
      cases c <;> simp_all [State.csrLocked, State.emsaBusy]
  have nro : ∀ c, s.csrLocked c = true → c.readOnly = false := by
    intro c
    cases c <;> simp [State.csrLocked, Csr.readOnly]
  unfold csrWrite at h
  split at h
  · rename_i h0
    exact .inl ⟨.illegalCsr, by simp [hs], by simp [key, h0], by rw [hp]; exact raise_eq_next.mp h⟩
  · rename_i c hc
    split at h
    · rename_i h0
      refine .inl ⟨.illegalCsr, by simp [hs], ⟨by simp, fun hh => ?_⟩, by rw [hp]; exact raise_eq_next.mp h⟩
      obtain ⟨c', h1, h2⟩ := key.mp hh
      rw [hc] at h1; cases h1; have := nro _ h2; simp_all
    · split at h
      · rename_i h0 h1
        refine .inl ⟨.illegalState, by simp [hs], ⟨fun _ => key.mpr ⟨c, hc, h1⟩, fun _ => rfl⟩, ?_⟩
        rw [hp]; exact raise_eq_next.mp h
      · rename_i h0 h1
        have nk : ¬IllegalStateCause i s := by
          rw [key]
          rintro ⟨c', h2, h3⟩
          rw [hc] at h2
          cases h2
          exact h1 h3
        split at h
        · exact .inl ⟨.badConfig, by simp [hs], by simp [nk], by rw [hp]; exact raise_eq_next.mp h⟩
        · rename_i h2
          exact .inr ⟨nk, _, .csr c v ((hw c).mpr hc) (by simpa using h0) (by simpa using h1) (by simpa using h2),
            done_eq_next.mp h⟩

/-- The outcome of EMSA.SETID and EMSA.SETNAME (R96, R97). -/
theorem outcome_of_loadStore {i : Instr} {cap : Nat} {store : State → List Byte → State} {s t : State}
    (h : loadStore i cap store s = .next t) (hi : i = .emsaSetid ∨ i = .emsaSetname)
    (hs : statusesOf i s = [.illegalState, .bufRange, .capacity])
    (heff : ∀ bs : List Byte, s.pending = [] → bs.length ≤ cap → Effect s i (store s bs)) : Outcome i s t := by
  have key : IllegalStateCause i s ↔ s.pending ≠ [] := by
    constructor
    · rintro (⟨h, _⟩ | ⟨h, _⟩ | ⟨h, _⟩ | ⟨h | h, _⟩ | ⟨_, h⟩)
      · rcases hi with rfl | rfl <;> cases h
      · rcases hi with rfl | rfl <;> cases h
      · rcases hi with rfl | rfl <;> cases h
      · rcases hi with rfl | rfl <;> cases h
      · rcases hi with rfl | rfl <;> cases h
      · exact h
    · intro h; exact .inr (.inr (.inr (.inr ⟨hi, h⟩)))
  have hp : ∀ c, pendingAfterError i c s = s := by
    intro c
    unfold pendingAfterError
    rw [if_neg]
    rcases hi with rfl | rfl <;> simp
  unfold loadStore at h
  simp only at h
  split at h
  · rename_i hb
    refine .inl ⟨.illegalState, by simp [hs], by rw [key]; simpa [State.emsaBusy] using hb, ?_⟩
    rw [hp]; exact raise_eq_next.mp h
  · rename_i hb
    have hb' : s.pending = [] := by simpa [State.emsaBusy] using hb
    split at h
    · exact .inl ⟨.bufRange, by simp [hs], by simp [key, hb'], by rw [hp]; exact raise_eq_next.mp h⟩
    · split at h
      · exact .inl ⟨.capacity, by simp [hs], by simp [key, hb'], by rw [hp]; exact raise_eq_next.mp h⟩
      · rename_i h2 h3
        obtain ⟨bs, hr, hk⟩ := withBytes_next h
        have := (Memory.readRange_eq_some.mp hr).1
        exact .inr ⟨by simp [key, hb'], _, heff bs hb' (by omega), done_eq_next.mp hk⟩

/-- Everything a command can do when it answers a next state. -/
theorem exec_next {i : Instr} {s t : State} (h : exec i s = .next t) : Outcome i s t := by
  cases i with
  | li rd imm => exact Plain.ok ⟨rfl, nofun, fun _ => id, nofun, nofun⟩ h (.reg rd _ nofun (fun _ => id) rfl nofun nofun)
  | lih rd imm => exact Plain.ok ⟨rfl, nofun, fun _ => id, nofun, nofun⟩ h (.reg rd _ nofun (fun _ => id) rfl nofun nofun)
  | csrr rd n =>
    have p : Plain (.csrr rd n) := ⟨rfl, nofun, fun _ => id, nofun, nofun⟩
    simp only [exec, execCsrr] at h
    split at h
    · exact p.raised h (.head _) nofun rfl
    · exact p.ok h (.reg rd _ nofun (fun _ => id) rfl nofun nofun)
  | csrw n rs => exact outcome_of_csrWrite h rfl (fun c => Iff.rfl) nofun nofun nofun rfl (fun _ => rfl)
  | csrwi n imm => exact outcome_of_csrWrite h rfl (fun c => Iff.rfl) nofun nofun nofun rfl (fun _ => rfl)
  | reset => exact Plain.ok ⟨rfl, nofun, fun _ => id, nofun, nofun⟩ h .reset
  | gfInit =>
    simp only [exec, execGfInit] at h
    have key : IllegalStateCause .gfInit s ↔ s.frozen = true := by
      constructor
      · rintro (⟨h, _⟩ | ⟨h, hf⟩ | ⟨h, _⟩ | ⟨h | h, _⟩ | ⟨h | h, _⟩)
        · cases h
        · exact hf
        all_goals cases h
      · intro hf; exact .inr (.inl ⟨rfl, hf⟩)
    split at h
    · rename_i hf
      exact .inl ⟨.illegalState, .head _, by rw [key]; simp [hf], raise_eq_next.mp h⟩
    · rename_i hf
      split at h
      · rename_i hd
        exact .inr ⟨by rwa [key], _, .init (by simpa using hf) (by simpa [legalDegree] using hd), done_eq_next.mp h⟩
      · exact .inl ⟨.badConfig, .tail _ (.head _), by simp [key, hf], raise_eq_next.mp h⟩
  | gfEnc rd rs1 rs2 =>
    have p : Plain (.gfEnc rd rs1 rs2) := ⟨rfl, nofun, fun _ => id, nofun, nofun⟩
    simp only [exec, execGfEnc] at h
    split at h
    · rename_i hb
      exact p.ok h (.enc rd rs1 rs2 _ _ (inBuf_iff.mp hb))
    · exact p.raised h (.head _) nofun rfl
  | gfDec rd rs1 =>
    have p : Plain (.gfDec rd rs1) := ⟨rfl, nofun, fun _ => id, nofun, nofun⟩
    simp only [exec, execGfDec] at h
    split at h
    · obtain ⟨bs, -, hk⟩ := withBytes_next h
      exact p.ok hk (.reg rd _ nofun (fun _ => id) rfl nofun nofun)
    · exact p.raised h (.head _) nofun rfl
  | emsaSetid => exact outcome_of_loadStore h (.inl rfl) rfl (fun bs h1 h2 => .setid bs h1 h2)
  | emsaSetname => exact outcome_of_loadStore h (.inr rfl) rfl (fun bs h1 h2 => .setname bs h1 h2)
  | emsaUpdate =>
    have p : Plain .emsaUpdate := ⟨rfl, nofun, fun _ => id, nofun, nofun⟩
    simp only [exec, execEmsaUpdate] at h
    split at h
    · exact p.raised h (.head _) nofun rfl
    · split at h
      · exact p.raised h (.tail _ (.head _)) nofun rfl
      · obtain ⟨bs, hr, hk⟩ := withBytes_next h
        have := (Memory.readRange_eq_some.mp hr).1
        exact p.ok hk (.update bs (by omega))
  | emsaRawdata =>
    have p : Plain .emsaRawdata := ⟨rfl, nofun, fun _ => id, nofun, nofun⟩
    simp only [exec, execEmsaRawdata, rawdataHashed, rawdataRaw] at h
    split at h
    · rename_i hm
      split at h
      · exact p.raised h (by simp [statusesOf, hm]) nofun rfl
      · rename_i hb
        exact p.ok h (.rawdata _ _ (by rw [State.hash_length]; exact inBuf_iff.mp (by simpa using hb)))
    · rename_i hm
      split at h
      · exact p.raised h (by simp [statusesOf, hm]) nofun rfl
      · rename_i hb
        split at h
        · exact p.raisedAndEmptied h (by simp [statusesOf, hm]) nofun rfl
        · exact p.ok h (.rawdata _ _ (inBuf_iff.mp (by simpa using hb)))
  | emsaEncode =>
    have p : Plain .emsaEncode := ⟨rfl, nofun, fun _ => id, nofun, nofun⟩
    simp only [exec, execEmsaEncode] at h
    split at h
    · exact p.raised h (.head _) nofun rfl
    · split at h
      · exact p.raised h (.head _) nofun rfl
      · rename_i hb
        obtain ⟨bs, hr, hk⟩ := withBytes_next h
        split at hk
        · exact p.raisedAndEmptied hk (.tail _ (.head _)) nofun rfl
        · rename_i block hbl
          exact p.ok hk (.encode _ _ (by rw [emsaEncode_length hbl]; exact inBuf_iff.mp (by simpa using hb)))
  | emsaVerify =>
    have p : Plain .emsaVerify := ⟨rfl, nofun, fun _ => id, nofun, nofun⟩
    simp only [exec, execEmsaVerify] at h
    split at h
    · exact p.raised h (.head _) nofun rfl
    · split at h
      · exact p.raised h (.head _) nofun rfl
      · obtain ⟨bs, hr, hk⟩ := withBytes_next h
        obtain ⟨bs2, hr2, hk2⟩ := withBytes_next hk
        exact p.ok hk2 (.verify _)
  | emsaName =>
    have p : Plain .emsaName := ⟨rfl, nofun, fun _ => id, nofun, nofun⟩
    simp only [exec, execEmsaName] at h
    split at h
    · exact p.raised h (.head _) nofun rfl
    · rename_i hb
      exact p.ok h (.name _ _ (inBuf_iff.mp (by simpa using hb)))
  | gfLog _ _ | gfExp _ _ | gfRed _ _ | gfSqr _ _ | gfSqrLn _ _ | gfSqrRr _ _ | gfSqrt _ _ | gfInv _ _
  | gfInvRn _ _ | gfInvRr _ _ => exact outcome_of_fieldUnary rfl h
  | gfMul _ _ _ | gfMulNnn _ _ _ | gfMulLll _ _ _ | gfMulRrr _ _ _ | gfMulNrr _ _ _ | gfMulRrn _ _ _
  | gfMulLnn _ _ _ | gfMulRnn _ _ _ | gfMulNrn _ _ _ | gfMulZrz _ _ _ | gfDiv _ _ _ | gfDivNnn _ _ _
  | gfDivRnn _ _ _ | gfDivRnr _ _ _ | gfDivNrr _ _ _ | gfDivZzr _ _ _ | gfDivRrr _ _ _ | gfPow _ _ _ =>
    exact outcome_of_fieldBinary rfl h

end Sys2Proof.Machine
end

