-- ==== Sys2Proof/Laws/PerInstr.lean ====
section
/-! SUPPORT. Statements made per instruction. `EncodesLegal`: the word of a command matches its own row of the
mask and match table (30_encoding.md R64). -/

namespace Sys2Proof.Laws

open Sys2Proof

/-- The must-be-zero bits of a placed field lie outside the mask: a placed register. -/
theorem reg_and_mask (m : Word) (lo : Nat) (h : ∀ r : Reg, regBits r lo &&& m = 0) (x : Word) (r : Reg) :
    (x ||| regBits r lo) &&& m = x &&& m := by
  rw [BitVec.and_comm, BitVec.and_or_distrib_left, BitVec.and_comm m x, BitVec.and_comm m, h]
  simp

/-- A placed value of n bits meets the mask nowhere if the mask is zero on its place. -/
theorem placed_and_mask {n : Nat} (v : BitVec n) (lo : Nat) (m : Word) (h : m.extractLsb' lo n = 0#n) :
    (v.setWidth 32 <<< lo) &&& m = 0 := by
  ext i hi
  simp only [BitVec.getElem_and, BitVec.getElem_shiftLeft]
  by_cases h1 : i < lo
  · simp [h1]
  · by_cases h2 : i - lo < n
    · have := congrArg (fun w => w.getLsbD (i - lo)) h
      simp [h2, show lo + (i - lo) = i by omega] at this
      simp [BitVec.getLsbD_eq_getElem hi] at this
      simp [this]
    · simp [BitVec.getLsbD_of_ge v (i - lo) (by omega)]

/-- The same beside another value. -/
theorem placed_or_mask {n : Nat} (x : Word) (v : BitVec n) (lo : Nat) (m : Word) (h : m.extractLsb' lo n = 0#n) :
    (x ||| v.setWidth 32 <<< lo) &&& m = x &&& m := by
  rw [BitVec.and_comm, BitVec.and_or_distrib_left, BitVec.and_comm m x, BitVec.and_comm m, placed_and_mask v lo m h]
  simp

/-- A word of format R keeps only its opcode under the mask. -/
theorem wordR_mask (op : Word) (rd rs1 rs2 : Reg) : wordR op rd rs1 rs2 &&& maskR = op &&& maskR := by
  rw [wordR, reg_and_mask _ _ (by decide), reg_and_mask _ _ (by decide), reg_and_mask _ _ (by decide)]

/-- A word of format R1 keeps only its opcode under the mask. -/
theorem wordR1_mask (op : Word) (rd rs1 : Reg) : wordR1 op rd rs1 &&& maskR1 = op &&& maskR1 := by
  rw [wordR1, reg_and_mask _ _ (by decide), reg_and_mask _ _ (by decide)]

/-- A word of format I keeps only its opcode under the mask. -/
theorem wordI_mask (op : Word) (rd : Reg) (imm16 : BitVec 16) : wordI op rd imm16 &&& maskI = op &&& maskI := by
  rw [wordI, placed_or_mask _ _ _ _ (by decide), reg_and_mask _ _ (by decide)]

/-- A word of format C keeps only its opcode under the mask. -/
theorem wordC_mask (op : Word) (r : Reg) (csr : BitVec 8) : wordC op r csr &&& maskC = op &&& maskC := by
  rw [wordC, placed_or_mask _ _ _ _ (by decide), reg_and_mask _ _ (by decide)]

/-- A word of format K keeps only its opcode under the mask. -/
theorem wordK_mask (op : Word) (csr : BitVec 8) (imm16 : BitVec 16) : wordK op csr imm16 &&& maskK = op &&& maskK := by
  rw [wordK, placed_or_mask _ _ _ _ (by decide), placed_or_mask _ _ _ _ (by decide)]

/-- The row of a command in the opcode map (R63). -/
def rowOf : Instr → Row
  | .li _ _ => ⟨"LI", maskI, 0x01⟩
  | .lih _ _ => ⟨"LIH", maskI, 0x02⟩
  | .csrr _ _ => ⟨"CSRR", maskC, 0x04⟩
  | .csrw _ _ => ⟨"CSRW", maskC, 0x05⟩
  | .csrwi _ _ => ⟨"CSRWI", maskK, 0x06⟩
  | .reset => ⟨"RESET", maskN, 0x0F⟩
  | .gfLog _ _ => ⟨"GF.LOG", maskR1, 0x10⟩
  | .gfExp _ _ => ⟨"GF.EXP", maskR1, 0x11⟩
  | .gfRed _ _ => ⟨"GF.RED", maskR1, 0x12⟩
  | .gfInit => ⟨"GF.INIT", maskN, 0x18⟩
  | .gfMul _ _ _ => ⟨"GF.MUL", maskR, 0x20⟩
  | .gfMulNnn _ _ _ => ⟨"GF.MUL.NNN", maskR, 0x21⟩
  | .gfMulLll _ _ _ => ⟨"GF.MUL.LLL", maskR, 0x22⟩
  | .gfMulRrr _ _ _ => ⟨"GF.MUL.RRR", maskR, 0x23⟩
  | .gfMulNrr _ _ _ => ⟨"GF.MUL.NRR", maskR, 0x24⟩
  | .gfMulRrn _ _ _ => ⟨"GF.MUL.RRN", maskR, 0x25⟩
  | .gfMulLnn _ _ _ => ⟨"GF.MUL.LNN", maskR, 0x26⟩
  | .gfMulRnn _ _ _ => ⟨"GF.MUL.RNN", maskR, 0x27⟩
  | .gfMulNrn _ _ _ => ⟨"GF.MUL.NRN", maskR, 0x28⟩
  | .gfMulZrz _ _ _ => ⟨"GF.MUL.ZRZ", maskR, 0x29⟩
  | .gfDiv _ _ _ => ⟨"GF.DIV", maskR, 0x30⟩
  | .gfDivNnn _ _ _ => ⟨"GF.DIV.NNN", maskR, 0x31⟩
  | .gfDivRnn _ _ _ => ⟨"GF.DIV.RNN", maskR, 0x32⟩
  | .gfDivRnr _ _ _ => ⟨"GF.DIV.RNR", maskR, 0x33⟩
  | .gfDivNrr _ _ _ => ⟨"GF.DIV.NRR", maskR, 0x34⟩
  | .gfDivZzr _ _ _ => ⟨"GF.DIV.ZZR", maskR, 0x35⟩
  | .gfDivRrr _ _ _ => ⟨"GF.DIV.RRR", maskR, 0x36⟩
  | .gfSqr _ _ => ⟨"GF.SQR", maskR1, 0x40⟩
  | .gfSqrLn _ _ => ⟨"GF.SQR.LN", maskR1, 0x41⟩
  | .gfSqrRr _ _ => ⟨"GF.SQR.RR", maskR1, 0x42⟩
  | .gfSqrt _ _ => ⟨"GF.SQRT", maskR1, 0x48⟩
  | .gfInv _ _ => ⟨"GF.INV", maskR1, 0x50⟩
  | .gfInvRn _ _ => ⟨"GF.INV.RN", maskR1, 0x51⟩
  | .gfInvRr _ _ => ⟨"GF.INV.RR", maskR1, 0x52⟩
  | .gfPow _ _ _ => ⟨"GF.POW", maskR, 0x60⟩
  | .gfEnc _ _ _ => ⟨"GF.ENC", maskR, 0x70⟩
  | .gfDec _ _ => ⟨"GF.DEC", maskR1, 0x71⟩
  | .emsaUpdate => ⟨"EMSA.UPDATE", maskN, 0x80⟩
  | .emsaRawdata => ⟨"EMSA.RAWDATA", maskN, 0x81⟩
  | .emsaEncode => ⟨"EMSA.ENCODE", maskN, 0x82⟩
  | .emsaVerify => ⟨"EMSA.VERIFY", maskN, 0x83⟩
  | .emsaName => ⟨"EMSA.NAME", maskN, 0x84⟩
  | .emsaSetid => ⟨"EMSA.SETID", maskN, 0x88⟩
  | .emsaSetname => ⟨"EMSA.SETNAME", maskN, 0x89⟩

/-- The row of i stands in the table, and the word of i matches it. -/
def EncodesLegal.Statement (i : Instr) : Prop := rowOf i ∈ commandTable ∧ (rowOf i).matches (encode i) = true

theorem EncodesLegal.li (rd : Reg) (imm16 : BitVec 16) : EncodesLegal.Statement (.li rd imm16) :=
  ⟨by simp [commandTable, systemRows, systemRows, rowOf], beq_iff_eq.mpr ((wordI_mask _ _ _).trans rfl)⟩

theorem EncodesLegal.lih (rd : Reg) (imm16 : BitVec 16) : EncodesLegal.Statement (.lih rd imm16) :=
  ⟨by simp [commandTable, systemRows, systemRows, rowOf], beq_iff_eq.mpr ((wordI_mask _ _ _).trans rfl)⟩

theorem EncodesLegal.csrr (rd : Reg) (csr : BitVec 8) : EncodesLegal.Statement (.csrr rd csr) :=
  ⟨by simp [commandTable, systemRows, systemRows, rowOf], beq_iff_eq.mpr ((wordC_mask _ _ _).trans rfl)⟩

theorem EncodesLegal.csrw (csr : BitVec 8) (rs : Reg) : EncodesLegal.Statement (.csrw csr rs) :=
  ⟨by simp [commandTable, systemRows, systemRows, rowOf], beq_iff_eq.mpr ((wordC_mask _ _ _).trans rfl)⟩

theorem EncodesLegal.csrwi (csr : BitVec 8) (imm16 : BitVec 16) : EncodesLegal.Statement (.csrwi csr imm16) :=
  ⟨by simp [commandTable, systemRows, systemRows, rowOf], beq_iff_eq.mpr ((wordK_mask _ _ _).trans rfl)⟩

theorem EncodesLegal.reset : EncodesLegal.Statement .reset := ⟨by decide, by decide⟩

theorem EncodesLegal.gfLog (rd rs1 : Reg) : EncodesLegal.Statement (.gfLog rd rs1) :=
  ⟨by simp [commandTable, fieldRows, systemRows, rowOf], beq_iff_eq.mpr ((wordR1_mask _ _ _).trans rfl)⟩

theorem EncodesLegal.gfExp (rd rs1 : Reg) : EncodesLegal.Statement (.gfExp rd rs1) :=
  ⟨by simp [commandTable, fieldRows, systemRows, rowOf], beq_iff_eq.mpr ((wordR1_mask _ _ _).trans rfl)⟩

theorem EncodesLegal.gfRed (rd rs1 : Reg) : EncodesLegal.Statement (.gfRed rd rs1) :=
  ⟨by simp [commandTable, fieldRows, systemRows, rowOf], beq_iff_eq.mpr ((wordR1_mask _ _ _).trans rfl)⟩

theorem EncodesLegal.gfInit : EncodesLegal.Statement .gfInit := ⟨by decide, by decide⟩

theorem EncodesLegal.gfMul (rd rs1 rs2 : Reg) : EncodesLegal.Statement (.gfMul rd rs1 rs2) :=
  ⟨by simp [commandTable, mulRows, systemRows, rowOf], beq_iff_eq.mpr ((wordR_mask _ _ _ _).trans rfl)⟩

theorem EncodesLegal.gfMulNnn (rd rs1 rs2 : Reg) : EncodesLegal.Statement (.gfMulNnn rd rs1 rs2) :=
  ⟨by simp [commandTable, mulRows, systemRows, rowOf], beq_iff_eq.mpr ((wordR_mask _ _ _ _).trans rfl)⟩

theorem EncodesLegal.gfMulLll (rd rs1 rs2 : Reg) : EncodesLegal.Statement (.gfMulLll rd rs1 rs2) :=
  ⟨by simp [commandTable, mulRows, systemRows, rowOf], beq_iff_eq.mpr ((wordR_mask _ _ _ _).trans rfl)⟩

theorem EncodesLegal.gfMulRrr (rd rs1 rs2 : Reg) : EncodesLegal.Statement (.gfMulRrr rd rs1 rs2) :=
  ⟨by simp [commandTable, mulRows, systemRows, rowOf], beq_iff_eq.mpr ((wordR_mask _ _ _ _).trans rfl)⟩

theorem EncodesLegal.gfMulNrr (rd rs1 rs2 : Reg) : EncodesLegal.Statement (.gfMulNrr rd rs1 rs2) :=
  ⟨by simp [commandTable, mulRows, systemRows, rowOf], beq_iff_eq.mpr ((wordR_mask _ _ _ _).trans rfl)⟩

theorem EncodesLegal.gfMulRrn (rd rs1 rs2 : Reg) : EncodesLegal.Statement (.gfMulRrn rd rs1 rs2) :=
  ⟨by simp [commandTable, mulRows, systemRows, rowOf], beq_iff_eq.mpr ((wordR_mask _ _ _ _).trans rfl)⟩

theorem EncodesLegal.gfMulLnn (rd rs1 rs2 : Reg) : EncodesLegal.Statement (.gfMulLnn rd rs1 rs2) :=
  ⟨by simp [commandTable, mulRows, systemRows, rowOf], beq_iff_eq.mpr ((wordR_mask _ _ _ _).trans rfl)⟩

theorem EncodesLegal.gfMulRnn (rd rs1 rs2 : Reg) : EncodesLegal.Statement (.gfMulRnn rd rs1 rs2) :=
  ⟨by simp [commandTable, mulRows, systemRows, rowOf], beq_iff_eq.mpr ((wordR_mask _ _ _ _).trans rfl)⟩

theorem EncodesLegal.gfMulNrn (rd rs1 rs2 : Reg) : EncodesLegal.Statement (.gfMulNrn rd rs1 rs2) :=
  ⟨by simp [commandTable, mulRows, systemRows, rowOf], beq_iff_eq.mpr ((wordR_mask _ _ _ _).trans rfl)⟩

theorem EncodesLegal.gfMulZrz (rd rs1 rs2 : Reg) : EncodesLegal.Statement (.gfMulZrz rd rs1 rs2) :=
  ⟨by simp [commandTable, mulRows, systemRows, rowOf], beq_iff_eq.mpr ((wordR_mask _ _ _ _).trans rfl)⟩

theorem EncodesLegal.gfDiv (rd rs1 rs2 : Reg) : EncodesLegal.Statement (.gfDiv rd rs1 rs2) :=
  ⟨by simp [commandTable, divRows, systemRows, rowOf], beq_iff_eq.mpr ((wordR_mask _ _ _ _).trans rfl)⟩

theorem EncodesLegal.gfDivNnn (rd rs1 rs2 : Reg) : EncodesLegal.Statement (.gfDivNnn rd rs1 rs2) :=
  ⟨by simp [commandTable, divRows, systemRows, rowOf], beq_iff_eq.mpr ((wordR_mask _ _ _ _).trans rfl)⟩

theorem EncodesLegal.gfDivRnn (rd rs1 rs2 : Reg) : EncodesLegal.Statement (.gfDivRnn rd rs1 rs2) :=
  ⟨by simp [commandTable, divRows, systemRows, rowOf], beq_iff_eq.mpr ((wordR_mask _ _ _ _).trans rfl)⟩

theorem EncodesLegal.gfDivRnr (rd rs1 rs2 : Reg) : EncodesLegal.Statement (.gfDivRnr rd rs1 rs2) :=
  ⟨by simp [commandTable, divRows, systemRows, rowOf], beq_iff_eq.mpr ((wordR_mask _ _ _ _).trans rfl)⟩

theorem EncodesLegal.gfDivNrr (rd rs1 rs2 : Reg) : EncodesLegal.Statement (.gfDivNrr rd rs1 rs2) :=
  ⟨by simp [commandTable, divRows, systemRows, rowOf], beq_iff_eq.mpr ((wordR_mask _ _ _ _).trans rfl)⟩

theorem EncodesLegal.gfDivZzr (rd rs1 rs2 : Reg) : EncodesLegal.Statement (.gfDivZzr rd rs1 rs2) :=
  ⟨by simp [commandTable, divRows, systemRows, rowOf], beq_iff_eq.mpr ((wordR_mask _ _ _ _).trans rfl)⟩

theorem EncodesLegal.gfDivRrr (rd rs1 rs2 : Reg) : EncodesLegal.Statement (.gfDivRrr rd rs1 rs2) :=
  ⟨by simp [commandTable, divRows, systemRows, rowOf], beq_iff_eq.mpr ((wordR_mask _ _ _ _).trans rfl)⟩

theorem EncodesLegal.gfSqr (rd rs1 : Reg) : EncodesLegal.Statement (.gfSqr rd rs1) :=
  ⟨by simp [commandTable, sqrInvPowRows, systemRows, rowOf], beq_iff_eq.mpr ((wordR1_mask _ _ _).trans rfl)⟩

theorem EncodesLegal.gfSqrLn (rd rs1 : Reg) : EncodesLegal.Statement (.gfSqrLn rd rs1) :=
  ⟨by simp [commandTable, sqrInvPowRows, systemRows, rowOf], beq_iff_eq.mpr ((wordR1_mask _ _ _).trans rfl)⟩

theorem EncodesLegal.gfSqrRr (rd rs1 : Reg) : EncodesLegal.Statement (.gfSqrRr rd rs1) :=
  ⟨by simp [commandTable, sqrInvPowRows, systemRows, rowOf], beq_iff_eq.mpr ((wordR1_mask _ _ _).trans rfl)⟩

theorem EncodesLegal.gfSqrt (rd rs1 : Reg) : EncodesLegal.Statement (.gfSqrt rd rs1) :=
  ⟨by simp [commandTable, sqrInvPowRows, systemRows, rowOf], beq_iff_eq.mpr ((wordR1_mask _ _ _).trans rfl)⟩

theorem EncodesLegal.gfInv (rd rs1 : Reg) : EncodesLegal.Statement (.gfInv rd rs1) :=
  ⟨by simp [commandTable, sqrInvPowRows, systemRows, rowOf], beq_iff_eq.mpr ((wordR1_mask _ _ _).trans rfl)⟩

theorem EncodesLegal.gfInvRn (rd rs1 : Reg) : EncodesLegal.Statement (.gfInvRn rd rs1) :=
  ⟨by simp [commandTable, sqrInvPowRows, systemRows, rowOf], beq_iff_eq.mpr ((wordR1_mask _ _ _).trans rfl)⟩

theorem EncodesLegal.gfInvRr (rd rs1 : Reg) : EncodesLegal.Statement (.gfInvRr rd rs1) :=
  ⟨by simp [commandTable, sqrInvPowRows, systemRows, rowOf], beq_iff_eq.mpr ((wordR1_mask _ _ _).trans rfl)⟩

theorem EncodesLegal.gfPow (rd rs1 rs2 : Reg) : EncodesLegal.Statement (.gfPow rd rs1 rs2) :=
  ⟨by simp [commandTable, sqrInvPowRows, systemRows, rowOf], beq_iff_eq.mpr ((wordR_mask _ _ _ _).trans rfl)⟩

theorem EncodesLegal.gfEnc (rd rs1 rs2 : Reg) : EncodesLegal.Statement (.gfEnc rd rs1 rs2) :=
  ⟨by simp [commandTable, codecRows, systemRows, rowOf], beq_iff_eq.mpr ((wordR_mask _ _ _ _).trans rfl)⟩

theorem EncodesLegal.gfDec (rd rs1 : Reg) : EncodesLegal.Statement (.gfDec rd rs1) :=
  ⟨by simp [commandTable, codecRows, systemRows, rowOf], beq_iff_eq.mpr ((wordR1_mask _ _ _).trans rfl)⟩

theorem EncodesLegal.emsaUpdate : EncodesLegal.Statement .emsaUpdate := ⟨by decide, by decide⟩

theorem EncodesLegal.emsaRawdata : EncodesLegal.Statement .emsaRawdata := ⟨by decide, by decide⟩

theorem EncodesLegal.emsaEncode : EncodesLegal.Statement .emsaEncode := ⟨by decide, by decide⟩

theorem EncodesLegal.emsaVerify : EncodesLegal.Statement .emsaVerify := ⟨by decide, by decide⟩

theorem EncodesLegal.emsaName : EncodesLegal.Statement .emsaName := ⟨by decide, by decide⟩

theorem EncodesLegal.emsaSetid : EncodesLegal.Statement .emsaSetid := ⟨by decide, by decide⟩

theorem EncodesLegal.emsaSetname : EncodesLegal.Statement .emsaSetname := ⟨by decide, by decide⟩

end Sys2Proof.Laws
end

