-- ==== Sys2Proof/Tests/Slice0.lean ====
section
/-! SUPPORT. Small tests and the witnesses of the statements' hypotheses. Every expected value is the
spec's own: the vectors of 95_test_vectors.md or a rule's formula. -/

namespace Sys2Proof.Tests

open Sys2Proof.Machine
open Sys2Proof.Safety

/-! ### Small states -/

/-- The example tables T4 for M = 4 (95_test_vectors.md 2.1). LOG[0] is never read. -/
def t4 : TablePair where
  log := [0, 0, 1, 4, 2, 8, 5, 10, 3, 14, 9, 7, 6, 13, 11, 12]
  exp := [1, 2, 4, 8, 3, 6, 12, 11, 5, 10, 7, 14, 15, 13, 9, 1]

/-- Run parameters with T4 for degree 4 and HASH_OUT_LEN = 32. -/
def params4 : Params := ⟨(Vector.replicate 16 ⟨[], []⟩).set 3 t4, 31⟩

/-- The reset state of a run with these parameters. -/
def idle : State := { State.reset with params := params4 }

/-- The same with the field instance of degree 4. -/
def ready : State := { idle with gfM := 4, frozen := true }

/-- x1 = a and x2 = b, both written. -/
def withRegs (s : State) (a b : Word) : State := (s.writeReg 1 a).writeReg 2 b

/-- The operands of section 3 of 95_test_vectors.md: M = 4, x1 = a, x2 = b. -/
def ops (a b : Word) : State := withRegs ready a b

/-- The state that a step answers. -/
def after : Result → Option State
  | .next t => some t
  | .fault _ => none
  | .refused _ => none

/-- x3 in the state that a step answers. -/
def x3 (r : Result) : Option Word := (after r).map fun t => t.x[3]

/-- The last answer of the block. -/
def answer (r : Result) : Option Response := (after r).bind fun t => t.responses.getLast?

/-- The fault that ends a run. -/
def stop : Result → Option Fault
  | .next _ => none
  | .fault e => some e
  | .refused _ => none

/-- The bytes of BUF from a. -/
def bytes (r : Result) (a n : Nat) : Option (List Byte) := (after r).bind fun t => Memory.readRange t.buf a n

/-- The bytes DE AD BE EF at 0x100, RAW mode, as in program P3. -/
def rawState : State :=
  { idle with
    emsaMode := .raw, emsaSrc := 0x100, emsaLen := 4, emsaDst := 0x300, emsaBits := 120
    buf := [(0x100, 0xDE), (0x101, 0xAD), (0x102, 0xBE), (0x103, 0xEF)] }

/-- The block of vector E1. -/
def block15 : List Byte :=
  [0x00, 0x01, 0xFF, 0xFF, 0xFF, 0xFF, 0xFF, 0xFF, 0xFF, 0xFF, 0x00, 0xDE, 0xAD, 0xBE, 0xEF]

/-- Program P3 before its first EMSA.VERIFY: the block of vector E1 stands at 0x300. -/
def codedState : State :=
  { rawState with
    emsaAux := 0x300, emsaAuxLen := 15, buf := Memory.writeRange rawState.buf 0x300 block15 }

/-! ### Well-formedness (30_encoding.md R61, 60_exceptions.md R205) -/

theorem test_wellFormed_refuses_unmapped_csr : (Instr.csrr 1 0x13).wellFormed = false := by decide
theorem test_wellFormed_refuses_csrw_read_only : (Instr.csrw 0x11 1).wellFormed = false := by decide
theorem test_wellFormed_refuses_csrwi_read_only : (Instr.csrwi 0x01 0).wellFormed = false := by decide
theorem test_wellFormed_accepts : (Instr.csrr 1 0x11).wellFormed = true ∧ (Instr.csrw 0x10 1).wellFormed = true := by
  decide

/-! ### Decoding: the words of 95_test_vectors.md and of the rules, one for each constructor -/

theorem test_decode_system :
    decode 0x12340102 = .ok (.lih 1 0x1234) ∧ decode 0xFFFF0101 = .ok (.li 1 0xFFFF) ∧
    decode 0x00220404 = .ok (.csrr 4 0x22) ∧ decode 0x00220305 = .ok (.csrw 0x22 3) ∧
    decode 0x00022006 = .ok (.csrwi 0x20 2) ∧ decode 0x0000000F = .ok .reset := by decide

theorem test_decode_field :
    decode 0x00001310 = .ok (.gfLog 3 1) ∧ decode 0x00001311 = .ok (.gfExp 3 1) ∧
    decode 0x00001312 = .ok (.gfRed 3 1) ∧ decode 0x00000018 = .ok .gfInit := by decide

theorem test_decode_multiply :
    decode 0x00021320 = .ok (.gfMul 3 1 2) ∧ decode 0x00021321 = .ok (.gfMulNnn 3 1 2) ∧
    decode 0x00043522 = .ok (.gfMulLll 5 3 4) ∧ decode 0x00021323 = .ok (.gfMulRrr 3 1 2) ∧
    decode 0x00021324 = .ok (.gfMulNrr 3 1 2) ∧ decode 0x00012325 = .ok (.gfMulRrn 3 2 1) ∧
    decode 0x00021326 = .ok (.gfMulLnn 3 1 2) ∧ decode 0x00021327 = .ok (.gfMulRnn 3 1 2) ∧
    decode 0x00012328 = .ok (.gfMulNrn 3 2 1) ∧ decode 0x0001CD29 = .ok (.gfMulZrz 13 12 1) := by decide

theorem test_decode_divide :
    decode 0x00017930 = .ok (.gfDiv 9 7 1) ∧ decode 0x00021331 = .ok (.gfDivNnn 3 1 2) ∧
    decode 0x00021332 = .ok (.gfDivRnn 3 1 2) ∧ decode 0x00021333 = .ok (.gfDivRnr 3 1 2) ∧
    decode 0x00021334 = .ok (.gfDivNrr 3 1 2) ∧ decode 0x00021335 = .ok (.gfDivZzr 3 1 2) ∧
    decode 0x00021336 = .ok (.gfDivRrr 3 1 2) := by decide

theorem test_decode_square_inverse_power :
    decode 0x00006740 = .ok (.gfSqr 7 6) ∧ decode 0x00001341 = .ok (.gfSqrLn 3 1) ∧
    decode 0x00001342 = .ok (.gfSqrRr 3 1) ∧ decode 0x00007848 = .ok (.gfSqrt 8 7) ∧
    decode 0x00003450 = .ok (.gfInv 4 3) ∧ decode 0x00001C51 = .ok (.gfInvRn 12 1) ∧
    decode 0x00001352 = .ok (.gfInvRr 3 1) ∧ decode 0x00041560 = .ok (.gfPow 5 1 4) := by decide

theorem test_decode_codec :
    decode 0x00087970 = .ok (.gfEnc 9 7 8) ∧ decode 0x00008A71 = .ok (.gfDec 10 8) := by decide

theorem test_decode_emsa :
    decode 0x00000080 = .ok .emsaUpdate ∧ decode 0x00000081 = .ok .emsaRawdata ∧
    decode 0x00000082 = .ok .emsaEncode ∧ decode 0x00000083 = .ok .emsaVerify ∧
    decode 0x00000084 = .ok .emsaName ∧ decode 0x00000088 = .ok .emsaSetid ∧
    decode 0x00000089 = .ok .emsaSetname := by decide

/-- The illegal words of 95_test_vectors.md 3.10. -/
theorem test_decode_illegal :
    decode 0x00000003 = .error .unassignedOpcode ∧ decode 0x0000007F = .error .unassignedOpcode ∧
    decode 0x00100320 = .error .mustBeZero ∧ decode 0x00011240 = .error .mustBeZero ∧
    decode 0x0000010F = .error .mustBeZero ∧ decode 0x00001001 = .error .mustBeZero ∧
    decode 0x01000004 = .error .mustBeZero ∧ decode 0x00001004 = .error .mustBeZero ∧
    decode 0x00110070 = .error .mustBeZero := by decide

theorem test_decodeTableWord : decodeTableWord 32 0x00021320 = some (.gfMul 3 1 2) := by decide

/-- The pseudo-instructions' words (95_test_vectors.md 3.4) and the assembler spelling (R67). -/
theorem test_pseudo :
    (Pseudo.expand (.gfMulRnr 3 1 2)).map encode = [0x00012325] ∧
    (Pseudo.expand (.gfMulNnr 3 1 2)).map encode = [0x00012328] ∧
    (Pseudo.expand (.gfMulZzr 3 1 2)).map encode = [0x00012329] := by decide
theorem test_asm :
    (Instr.csrwi 0x25 2048).asm = "CSRWI EMSA_BITS, 2048" ∧ (Instr.gfMul 3 1 2).asm = "GF.MUL x3, x1, x2" := by
  decide

/-! ### System commands (95_test_vectors.md 3.1) -/

theorem test_li : x3 (exec (.li 3 0xFFFF) idle) = some 0x0000FFFF := by decide
theorem test_lih : x3 (exec (.lih 3 0x1234) (idle.writeReg 3 0xFFFF)) = some 0x1234FFFF := by decide
theorem test_csrr_hashLen : x3 (exec (.csrr 3 0x2D) idle) = some 32 := by decide
theorem test_csrr_unmapped : answer (exec (.csrr 3 0x30) idle) = some (.status .illegalCsr) := by decide
theorem test_csrw : (after (exec (.csrw 0x22 1) (ops 0xBEEF 0))).map State.emsaSrc = some 0xBEEF := by decide
theorem test_csrw_read_only_before_register :
    answer (exec (.csrw 0x11 3) idle) = some (.status .illegalCsr) := by decide
theorem test_csrwi_bad_mode :
    (after (exec (.csrwi 0x20 2) idle)).map (fun t => (t.cause, t.faultCmd)) = some (4, 0x00022006) := by decide
theorem test_csrwi_frozen_degree : answer (exec (.csrwi 0x10 4) ready) = some (.status .illegalState) := by decide
theorem test_reset : (after (exec .reset (ops 7 9))).map (fun t => (t.frozen, t.gfM)) = some (false, 0) := by decide

/-! ### Field instance and lookups (95_test_vectors.md 3.1 to 3.3) -/

theorem test_gfInit :
    (after (exec .gfInit { idle with gfM := 16 })).map (fun t => (t.readCsr .gfQ, t.readCsr .status)) =
      some (65536, 1) := by decide
theorem test_gfInit_degree_17 : answer (exec .gfInit { idle with gfM := 17 }) = some (.status .badConfig) := by decide
theorem test_gfLog : x3 (exec (.gfLog 3 1) (ops 7 0)) = some 10 := by decide
theorem test_gfLog_zero : stop (exec (.gfLog 3 1) (ops 0 0)) = some .zeroOperand := by decide
theorem test_gfExp_ord : x3 (exec (.gfExp 3 1) (ops 15 0)) = some 1 := by decide
theorem test_gfExp_range : stop (exec (.gfExp 3 1) (ops 16 0)) = some .logRange := by decide
theorem test_gfRed : x3 (exec (.gfRed 3 1) (ops 31 0)) = some 16 := by decide
theorem test_gfRed_negative : x3 (exec (.gfRed 3 1) (ops 0x80000000 0)) = some 0xF8000000 := by decide

/-! ### Multiply (95_test_vectors.md 3.4) -/

theorem test_gfMul : x3 (exec (.gfMul 3 1 2) (ops 7 9)) = some 10 := by decide
theorem test_gfMul_ord : x3 (exec (.gfMul 3 1 2) (ops 6 7)) = some 1 := by decide
theorem test_gfMulNnn : x3 (exec (.gfMulNnn 3 1 2) (ops 7 9)) = some 10 := by decide
theorem test_gfMulNnn_zero : stop (exec (.gfMulNnn 3 1 2) (ops 7 0)) = some .zeroOperand := by decide
theorem test_gfMulLll : x3 (exec (.gfMulLll 3 1 2) (ops 0xFFFFFFFF 2)) = some 1 := by decide
theorem test_gfMulRrr : x3 (exec (.gfMulRrr 3 1 2) (ops 15 15)) = some 15 := by decide
theorem test_gfMulNrr : x3 (exec (.gfMulNrr 3 1 2) (ops 10 14)) = some 10 := by decide
theorem test_gfMulRrn : x3 (exec (.gfMulRrn 3 1 2) (ops 15 9)) = some 14 := by decide
theorem test_gfMulLnn : x3 (exec (.gfMulLnn 3 1 2) (ops 9 9)) = some 28 := by decide
theorem test_gfMulRnn : x3 (exec (.gfMulRnn 3 1 2) (ops 6 7)) = some 15 := by decide
theorem test_gfMulNrn : x3 (exec (.gfMulNrn 3 1 2) (ops 15 9)) = some 9 := by decide
theorem test_gfMulZrz_zero : x3 (exec (.gfMulZrz 3 1 2) (ops 10 0)) = some 0 := by decide
theorem test_gfMulZrz_range : stop (exec (.gfMulZrz 3 1 2) (ops 16 0)) = some .logRange := by decide

/-! ### Divide (95_test_vectors.md 3.5) -/

theorem test_gfDiv : x3 (exec (.gfDiv 3 1 2) (ops 7 9)) = some 14 := by decide
theorem test_gfDiv_zero_by_zero : stop (exec (.gfDiv 3 1 2) (ops 0 0)) = some .zeroOperand := by decide
theorem test_gfDivNnn : x3 (exec (.gfDivNnn 3 1 2) (ops 1 9)) = some 2 := by decide
theorem test_gfDivRnn : x3 (exec (.gfDivRnn 3 1 2) (ops 9 7)) = some 4 := by decide
theorem test_gfDivRnr : x3 (exec (.gfDivRnr 3 1 2) (ops 7 15)) = some 10 := by decide
theorem test_gfDivNrr : x3 (exec (.gfDivNrr 3 1 2) (ops 10 14)) = some 14 := by decide
theorem test_gfDivZzr : x3 (exec (.gfDivZzr 3 1 2) (ops 7 14)) = some 14 := by decide
theorem test_gfDivZzr_range : stop (exec (.gfDivZzr 3 1 2) (ops 0 16)) = some .logRange := by decide
theorem test_gfDivRrr : x3 (exec (.gfDivRrr 3 1 2) (ops 0 1)) = some 14 := by decide
theorem test_gfDivRrr_ord : x3 (exec (.gfDivRrr 3 1 2) (ops 15 0)) = some 15 := by decide

/-! ### Square, root, inverse, power (95_test_vectors.md 3.6, 3.7) -/

theorem test_gfSqr : x3 (exec (.gfSqr 3 1) (ops 9 0)) = some 13 := by decide
theorem test_gfSqrLn : x3 (exec (.gfSqrLn 3 1) (ops 9 0)) = some 28 := by decide
theorem test_gfSqrRr : x3 (exec (.gfSqrRr 3 1) (ops 8 0)) = some 1 := by decide
theorem test_gfSqrt : x3 (exec (.gfSqrt 3 1) (ops 9 0)) = some 11 := by decide
theorem test_gfInv_one : x3 (exec (.gfInv 3 1) (ops 1 0)) = some 1 := by decide
theorem test_gfInv : x3 (exec (.gfInv 3 1) (ops 15 0)) = some 8 := by decide
theorem test_gfInvRn : x3 (exec (.gfInvRn 3 1) (ops 1 0)) = some 15 := by decide
theorem test_gfInvRr : x3 (exec (.gfInvRr 3 1) (ops 15 0)) = some 0 := by decide
theorem test_gfPow_negative : x3 (exec (.gfPow 3 1 2) (ops 2 0x80000000)) = some 11 := by decide
theorem test_gfPow_zero : x3 (exec (.gfPow 3 1 2) (ops 0 0)) = some 1 := by decide

/-! ### Codec (95_test_vectors.md 3.8) -/

theorem test_gfEnc : bytes (exec (.gfEnc 3 1 2) (withRegs idle 0x12345678 0)) 0 2 = some [0x56, 0x78] := by decide
theorem test_gfEnc_top : answer (exec (.gfEnc 3 1 2) (withRegs idle 1 65535)) = some (.status .bufRange) := by decide
theorem test_gfDec :
    x3 (exec (.gfDec 3 1) (withRegs { idle with buf := [(0x10, 0x80), (0x11, 0)] } 0x10 0)) = some 0x8000 := by
  decide
theorem test_gfDec_unwritten : stop (exec (.gfDec 3 1) (withRegs idle 0x200 0)) = some .unwrittenMemory := by decide

/-! ### Padding engine (95_test_vectors.md 3.9, programs P3, P4) -/

theorem test_emsaUpdate : (after (exec .emsaUpdate rawState)).map State.pending = some [0xDE, 0xAD, 0xBE, 0xEF] := by
  decide
theorem test_emsaUpdate_range :
    answer (exec .emsaUpdate { rawState with emsaSrc := 65535, emsaLen := 2 }) = some (.status .bufRange) := by decide
theorem test_emsaRawdata_raw :
    bytes (exec .emsaRawdata { rawState with emsaExpect := 2, pending := [0x61, 0x62] }) 0x300 2 =
      some [0x61, 0x62] := by
  decide
theorem test_emsaRawdata_hashed :
    (after (exec .emsaRawdata { rawState with emsaMode := .hashed, emsaExpect := 5, pending := [1, 2, 3] })).map
      (fun t => (t.emsaOutLen, t.pending)) = some (32, []) := by decide
theorem test_emsaEncode : bytes (exec .emsaEncode rawState) 0x300 15 = some block15 := by decide
theorem test_emsaEncode_too_small :
    (after (exec .emsaEncode { rawState with emsaBits := 112, pending := [1] })).map
      (fun t => (t.cause, t.pending, t.emsaOutLen)) = some (7, [], 0) := by decide
theorem test_emsaVerify : (after (exec .emsaVerify codedState)).map State.emsaResult = some true := by decide
theorem test_emsaVerify_flip :
    (after (exec .emsaVerify { codedState with buf := Memory.write codedState.buf 0x30E 0xEE })).map
      (fun t => (t.emsaResult, t.cause)) = some (false, 0) := by decide
theorem test_emsaName_raw :
    bytes (exec .emsaName rawState) 0x300 10 =
      some [0x45, 0x4D, 0x53, 0x41, 0x33, 0x28, 0x52, 0x61, 0x77, 0x29] := by decide
theorem test_emsaName_hashed :
    bytes (exec .emsaName { idle with hashName := [0x53, 0x48] }) 0 9 =
      some [0x45, 0x4D, 0x53, 0x41, 0x33, 0x28, 0x53, 0x48, 0x29] := by decide
theorem test_emsaSetid :
    (after (exec .emsaSetid rawState)).map State.hashId = some [0xDE, 0xAD, 0xBE, 0xEF] := by decide
theorem test_emsaSetid_capacity :
    answer (exec .emsaSetid { rawState with emsaLen := 65 }) = some (.status .capacity) := by decide
theorem test_emsaSetname : (after (exec .emsaSetname rawState)).map State.hashName = some [0xDE, 0xAD, 0xBE, 0xEF] := by
  decide

/-! ### The step -/

theorem test_step_command : x3 (step ((ops 7 9).withFetchWord 32 0x00021320)) = some 10 := by decide
theorem test_step_illegal :
    (after (step (idle.withFetchWord 32 0x00100320))).map (fun t => (t.cause, t.faultCmd)) = some (1, 0x00100320) := by
  decide
theorem test_step_host_read :
    answer (step { rawState with inputs := [.memRead 0x101] }) = some (.memData 0xAD) := by decide

/-! ### Witnesses: for each statement with hypotheses, a state and operands that meet them together -/

/-- T4 meets T1 to T5 (95_test_vectors.md 1.6). -/
theorem witness_tablesValid : TablesValid ready.field where
  logLength := by decide
  expLength := by decide
  t1 := fun x h1 h2 => (by decide : ∀ x : Fin 16, 1 ≤ x.val → logEntry ready.field x < ready.field.ord) ⟨x, h2⟩ h1
  t2 := fun i h =>
    (by decide : ∀ i : Fin 15, 1 ≤ expEntry ready.field i ∧ expEntry ready.field i < ready.field.q) ⟨i, h⟩
  t3Exp := fun x h1 h2 =>
    (by decide : ∀ x : Fin 16, 1 ≤ x.val → expEntry ready.field (logEntry ready.field x) = x) ⟨x, h2⟩ h1
  t3Log := fun i h => (by decide : ∀ i : Fin 15, logEntry ready.field (expEntry ready.field i) = i) ⟨i, h⟩
  t4 := by decide
  t5 := by decide

/-- The field of `ops a b` is that of `ready`, whatever the operands. -/
theorem witness_fieldReady (a b : Word) : FieldReady (ops a b) :=
  ⟨rfl, show 1 ≤ ready.field.m by decide, show ready.field.m ≤ 16 by decide, witness_tablesValid⟩

theorem witness_EveryLegalWordIsTheWordOfItsCommand : decode 0x00021320 = .ok (.gfMul 3 1 2) := by decide

theorem witness_DecoderAcceptsWhatTheMaskTableMatches :
    Row.mk "LIH" maskI 0x02 ∈ commandTable ∧ (Row.mk "LIH" maskI 0x02).matches 0xFFFF0F02 = true := by decide

theorem witness_StepRunsTheDecodedCommand :
    (idle.withFetchWord 32 0x00070101).inputs = .command 0x00070101 :: [] ∧ decode 0x00070101 = .ok (.li 1 7) := by
  decide

theorem witness_IllegalWordRaisesIllegalCommand :
    (idle.withFetchWord 32 0x00100320).inputs = .command 0x00100320 :: [] ∧
      ∀ row ∈ commandTable, row.matches 0x00100320 = false := by decide

theorem witness_EveryCommandAnswersOneStatusAndAdvancesTheIndex :
    ∃ t, step (idle.withFetchWord 32 0x00000018) = .next t := ⟨_, rfl⟩

theorem witness_HostPortActionsAndIdle :
    ({ rawState with inputs := [.memWrite 0xFFFF 1] }).inputs = .memWrite 0xFFFF 1 :: [] ∧
    ({ rawState with inputs := [.memRead 0x100] }).inputs = .memRead 0x100 :: [] ∧
    Memory.read rawState.buf (0x100#16).toNat = some 0xDE ∧ Memory.read rawState.buf (0xFFFF#16).toNat = none ∧
    ({ ops 7 9 with inputs := [.regRead 2] }).inputs = .regRead 2 :: [] ∧ Written (ops 7 9) 2 ∧
    rawState.inputs = [] := by
  unfold Written; decide

theorem witness_ResetInputPutsEveryItemAtReset :
    ({ ops 7 9 with inputs := [.resetInput] }).inputs = .resetInput :: [] := rfl

theorem witness_StatusesByCommand :
    (∃ t, exec .emsaEncode { rawState with emsaBits := 112 } = .next t ∧
      Responds .encodingFailure { rawState with emsaBits := 112 } t) ∧
    decode 0x0000010F = .error .mustBeZero ∧ (0xFFFFFF06 : Word).toNat % 256 = 6 :=
  ⟨⟨_, rfl, rfl⟩, by decide, by decide⟩

theorem witness_LoadImmediateHighKeepsTheLowHalf : Written (ops 7 9) 1 := rfl

theorem witness_CsrReadWritesTheReadValue :
    Csr.ofNumber 0x2E = none ∧ Csr.ofNumber 0x2D = some .emsaHashLen := by decide

theorem witness_CsrMapAndReadValues :
    (ready.frozen = true ∧ ready.gfM.toNat ≤ 16) ∧ idle.frozen = false ∧ rawState.pending.length ≤ 2 ^ 32 - 1 ∧
    ({ idle with hashId := List.replicate 64 0 }).hashId.length ≤ 64 ∧
    ({ idle with hashName := List.replicate 64 0 }).hashName.length ≤ 64 := by decide

/-- Each clause of the write rule, at the boundary of its values. -/
theorem witness_CsrWriteFromRegister :
    Csr.ofNumber 0x00 = none ∧ (Csr.ofNumber 0x12 = some .gfOrd ∧ listedReadOnly .gfOrd = true) ∧
    (Csr.ofNumber 0x10 = some .gfM ∧ writeForbidden .gfM ready) ∧
    (Csr.ofNumber 0x21 = some .emsaExpect ∧ writeForbidden .emsaExpect { idle with pending := [0] }) ∧
    (Csr.ofNumber 0x20 = some .emsaMode ∧ Written (ops 2 1) 1 ∧ (ops 2 1).pending = [] ∧ 1 < (ops 2 1).x[1].toNat) ∧
    (Csr.ofNumber 0x02 = some .cause ∧ Written (ops 2 1) 2) ∧
    (plainWritable .emsaMode = true ∧ ¬writeForbidden .emsaMode (ops 2 1) ∧ (ops 2 1).x[2].toNat ≤ 1) := by
  unfold writeForbidden Written; decide

theorem witness_CsrWriteFromImmediate :
    (1 < (BitVec.ofNat 32 (2#16).toNat).toNat ∧ (BitVec.ofNat 32 (1#16).toNat).toNat ≤ 1) ∧
    plainWritable .emsaAuxLen = true ∧ ¬writeForbidden .emsaAuxLen ready := by
  unfold writeForbidden; decide

theorem witness_InitConstructsTheFieldInstance :
    ready.frozen = true ∧ idle.gfM.toNat < 1 ∧ 16 < ({ idle with gfM := 17 }).gfM.toNat ∧
    (1 ≤ ({ idle with gfM := 1 }).gfM.toNat ∧ ({ idle with gfM := 16 }).gfM.toNat ≤ 16 ∧ idle.frozen = false) := by
  decide

/-- One source: no instance; each fault at its boundary; each tag's extreme legal operands (O20, O25, O26). -/
theorem witness_unary :
    (withRegs idle 7 9).frozen = false ∧ Written (ops 15 0) 1 ∧
    badZ (ops 16 0).field 16 = some .elementRange ∧ badN (ops 16 0).field 16 = some .elementRange ∧
    badN (ops 0 0).field 0 = some .zeroOperand ∧ badR (ops 16 0).field 16 = some .logRange ∧
    badZ ready.field 0 = none ∧ badZ ready.field 15 = none ∧ badN ready.field 1 = none ∧ badN ready.field 15 = none ∧
    badR ready.field 0 = none ∧ badR ready.field 15 = none ∧ badL ready.field 0xFFFFFFFF = none := by
  unfold Written; decide

/-- The premises on the state, and the operands it presents, whatever they are (O20 to O27, O60). -/
theorem witness_ready (a b : Word) :
    FieldReady (ops a b) ∧ FieldLegal (ops a b) ∧ Written (ops a b) 1 ∧ Written (ops a b) 2 ∧
      (ops a b).field = ready.field ∧ (ops a b).x[1] = a ∧ (ops a b).x[2] = b :=
  ⟨witness_fieldReady a b, ⟨rfl, (witness_fieldReady a b).2.1, (witness_fieldReady a b).2.2.1⟩, rfl, rfl, rfl, rfl, rfl⟩

/-- Two sources: a fault of the first, a fault of the second, and no fault, for the pairs of tags in use (O21 to
O24). -/
theorem witness_binary :
    badPair badZ badZ ready.field 16 16 = some .elementRange ∧ badPair badZ badZ ready.field 0 15 = none ∧
    badPair badN badN ready.field 15 0 = some .zeroOperand ∧ badPair badN badN ready.field 1 15 = none ∧
    badPair badR badR ready.field 15 16 = some .logRange ∧ badPair badR badR ready.field 15 15 = none ∧
    badPair badR badN ready.field 16 0 = some .logRange ∧ badPair badR badN ready.field 15 1 = none ∧
    badPair badR badZ ready.field 16 0 = some .logRange ∧ badPair badR badZ ready.field 15 0 = none ∧
    badPair badZ badN ready.field 0 0 = some .zeroOperand ∧ badPair badZ badN ready.field 0 1 = none ∧
    badPair badZ badR ready.field 0 16 = some .logRange ∧ badPair badZ badR ready.field 0 15 = none ∧
    badPair badN badR ready.field 0 16 = some .zeroOperand ∧ badPair badN badR ready.field 1 15 = none ∧
    badPair badL badL ready.field 0xFFFFFFFF 0x80000000 = none := by decide

/-- The three kinds of operands of GF.POW. -/
theorem witness_PowerWithSignedExponent :
    badZ ready.field 16 = some .elementRange ∧ (badZ ready.field 0 = none ∧ (0xFFFFFFFF : Word).toInt < 0) ∧
    (badZ ready.field 15 = none ∧ (0x80000000 : Word).toInt < 0) := by decide

/-- Both ends of each range of R124, for M = 4. -/
theorem witness_LawsOfReduce :
    (1 ≤ ready.field.m ∧ ready.field.m ≤ 16) ∧ ((-2 : Int) ^ 31 ≤ -2 ^ 31 ∧ (2 ^ 31 - 1 : Int) < 2 ^ 31) ∧
    ((0 : Int) ≤ 15 ∧ (15 : Int) ≤ ready.field.ord) ∧ ((ready.field.q : Int) ≤ 16 ∧ (30 : Int) ≤ 2 * ready.field.ord) ∧
    (-(ready.field.ord : Int) ≤ -15 ∧ (-1 : Int) ≤ -1) := by decide

/-- Both ends of the difference of GF.DIV.RNR and of the result of GF.DIV.RRR: LOG[1] = 0, LOG[9] = 14. -/
theorem witness_DivideGivingLogarithms :
    TablesValid ready.field ∧ (badPair badN badN ready.field 9 1 = none ∧ badPair badN badN ready.field 1 9 = none) ∧
    (badPair badN badR ready.field 1 15 = none ∧ badPair badN badR ready.field 9 0 = none) ∧
    (badPair badR badR ready.field 0 15 = none ∧ badPair badR badR ready.field 15 0 = none) :=
  ⟨witness_tablesValid, by decide, by decide, by decide⟩

/-- A value of each class, and both ends of the operand of GF.RED. -/
theorem witness_ResultsStayInTheirTagSets :
    TablesValid ready.field ∧ ready.field.mulValue 7 9 = .ok 10 ∧ ready.field.divNnnValue 7 9 = .ok 14 ∧
    ready.field.mulRrrValue 15 15 = .ok 15 ∧ ready.field.divRnrValue 1 15 = .ok 0 ∧
    ready.field.invRnValue 1 = .ok 15 ∧ ready.field.mulLnnValue 9 9 = .ok 28 ∧
    (-(ready.field.ord : Int) ≤ (0xFFFFFFF1 : Word).toInt ∧ ready.field.redValue 0xFFFFFFF1 = .ok 0) ∧
    ((30 : Word).toInt ≤ 2 * ready.field.ord ∧ ready.field.redValue 30 = .ok 15) ∧
    ((0x7FFFFFFF : Word).toNat < 2 ^ 31 ∧ ready.field.mulLllValue 10 14 = .ok 24) :=
  ⟨witness_tablesValid, by decide, by decide, by decide, by decide, by decide, by decide, by decide, by decide,
    by decide⟩

/-- The operands of the laws (O30 to O34): elements, a logarithm, and exponents with j = i + ord. -/
theorem witness_laws :
    TablesValid ready.field ∧ (1 ≤ ready.field.m ∧ ready.field.m ≤ 16 ∧ 2 ≤ ready.field.m) ∧
    ((15 : Word).toNat < ready.field.q ∧ (15 : Word) ≠ 0 ∧ (0 : Word).toNat < ready.field.q) ∧
    (15 : Word).toNat ≤ ready.field.ord ∧
    ((1 : Word).toInt ≠ 0 ∧ (16 : Word).toInt = (1 : Word).toInt + ready.field.ord * 1) ∧
    (-2 ^ 31 ≤ (0x80000000 : Word).toInt + (0 : Word).toInt ∧ (0x7FFFFFFF : Word).toInt + (0 : Word).toInt < 2 ^ 31) :=
  ⟨witness_tablesValid, by decide, by decide, by decide, by decide, by decide⟩

theorem witness_EncodeStoresTwoBytesBigEndian :
    Written (withRegs idle 1 65535) 1 ∧ Written (withRegs idle 1 65535) 2 ∧
    65536 < (withRegs idle 1 65535).x[2].toNat + 2 ∧ (withRegs idle 0 65534).x[2].toNat + 2 ≤ 65536 := by
  unfold Written; decide

/-- A state whose bytes at 0x101 and 0x103 are written and at 0x104 is not. -/
theorem witness_DecodeLoadsTwoBytesBigEndian :
    Written (withRegs rawState 0x103 0) 1 ∧ 65536 < (withRegs rawState 65535 0).x[1].toNat + 2 ∧
    SomeUnwritten (withRegs rawState 0x103 0) 0x103 2 ∧ Holds (withRegs rawState 0x102 0) 0x102 [0xBE, 0xEF] :=
  ⟨rfl, by decide, ⟨1, by decide, by decide⟩,
    fun i h => (by decide : ∀ i : Fin 2, Memory.read rawState.buf (0x102 + i) = [0xBE#8, 0xEF#8][i.val]?) ⟨i, h⟩⟩

theorem witness_CodecRoundTrip :
    Written (withRegs rawState 0x102 65534) 1 ∧ Written (withRegs rawState 0x102 65534) 2 ∧
    (withRegs rawState 0x102 65534).x[2].toNat + 2 ≤ 65536 ∧ (withRegs rawState 0x102 65534).x[1].toNat + 2 ≤ 65536 ∧
    (3 : Reg) ≠ 2 ∧ Holds (withRegs rawState 0x102 65534) 0x102 [0xBE, 0xEF] :=
  ⟨rfl, rfl, by decide, by decide, by decide, witness_DecodeLoadsTwoBytesBigEndian.2.2.2⟩

/-- Vectors E3 (7 bytes of padding) and E1 (8 bytes). -/
theorem witness_EncodedBlockLayout :
    (((112 + 7) / 8 : Nat) - 3 - ((0 + 4 : Nat) : Int) < 8) ∧
    (((120 + 7) / 8 : Nat) - 3 - ((0 + 4 : Nat) : Int) = (8 : Nat)) := by
  decide

/-- The four written bytes of `rawState`. -/
theorem witness_holds : Holds rawState 0x100 [0xDE, 0xAD, 0xBE, 0xEF] :=
  fun i h => (by decide : ∀ i : Fin 4, Memory.read rawState.buf (0x100 + i) =
    [0xDE#8, 0xAD#8, 0xBE#8, 0xEF#8][i.val]?) ⟨i, h⟩

/-- A byte sequence of every length. -/
theorem exists_bytes (n : Nat) : ∃ p : List Byte, p.length = n := ⟨List.replicate n 0, List.length_replicate⟩

/-- Vectors U3, U4, U5 (sizes 65536 and 4096), and an unwritten byte. -/
theorem witness_UpdateAppendsToPending :
    65536 < ({ rawState with emsaSrc := 65535, emsaLen := 2 }).emsaSrc.toNat + 2 ∧
    (∃ p : List Byte, p.length = 4096 ∧ 4096 < 4096 + ({ rawState with pending := p, emsaLen := 1 }).emsaLen.toNat) ∧
    (∃ p : List Byte, p.length = 4294967295 ∧
      4294967295 < 4294967295 + ({ idle with pending := p, emsaLen := 1 }).emsaLen.toNat) ∧
    rawState.emsaSrc.toNat + rawState.emsaLen.toNat ≤ 65536 ∧ rawState.pending.length + rawState.emsaLen.toNat ≤ 4096 ∧
    SomeUnwritten { rawState with emsaLen := 5 } 0x100 5 ∧ [0xDE#8, 0xAD, 0xBE, 0xEF].length = rawState.emsaLen.toNat ∧
    Holds rawState rawState.emsaSrc.toNat [0xDE, 0xAD, 0xBE, 0xEF] :=
  ⟨by decide,
    (exists_bytes _).imp fun _ h => ⟨h, Nat.lt_add_of_pos_right (show 0 < (1 : Word).toNat by decide)⟩,
    (exists_bytes _).imp fun _ h => ⟨h, Nat.lt_add_of_pos_right (show 0 < (1 : Word).toNat by decide)⟩,
    by decide, by decide, ⟨4, by decide, by decide⟩, rfl, witness_holds⟩

theorem witness_IdAndNameStoresAreLoaded :
    ({ rawState with pending := [0] }).pending ≠ [] ∧
    (rawState.pending = [] ∧ 65536 < ({ rawState with emsaSrc := 65535, emsaLen := 2 }).emsaSrc.toNat + 2) ∧
    64 < ({ rawState with emsaLen := 65 }).emsaLen.toNat ∧
    (rawState.emsaLen.toNat ≤ 64 ∧ SomeUnwritten { rawState with emsaLen := 64 } 0x100 64) ∧
    Holds rawState rawState.emsaSrc.toNat [0xDE, 0xAD, 0xBE, 0xEF] :=
  ⟨by decide, by decide, by decide, ⟨by decide, 4, by decide, by decide⟩, witness_holds⟩

/-- Vectors H1 and H4: H = 32. -/
theorem witness_RawdataInHashedModeWritesTheDigest :
    idle.emsaMode = .hashed ∧ 65536 < ({ idle with emsaDst := 65505 }).emsaDst.toNat + idle.hashOutLen ∧
    ({ idle with emsaDst := 65504 }).emsaDst.toNat + idle.hashOutLen ≤ 65536 := by decide

theorem witness_RawdataInRawModeWritesTheBuffer :
    rawState.emsaMode = .raw ∧ 65536 < ({ rawState with emsaDst := 65536 }).emsaDst.toNat + [0#8].length ∧
    (({ rawState with emsaExpect := 32 }).emsaExpect ≠ 0 ∧ rawState.pending.length ≠ (32 : Word).toNat) ∧
    rawState.emsaExpect = 0 ∧
    ({ rawState with pending := [1, 2], emsaExpect := 2 }).pending.length = (2 : Word).toNat := by
  decide

/-- Vectors E3, E1 and U19. -/
theorem witness_EncodeWritesTheBlock :
    65536 < ({ rawState with emsaDst := 0xFFFB }).emsaDst.toNat + (88 + 7) / 8 ∧
    (rawState.emsaSrc.toNat + rawState.emsaLen.toNat ≤ 65536 ∧
      rawState.emsaDst.toNat + (rawState.emsaBits.toNat + 7) / 8 ≤ 65536) ∧
    SomeUnwritten { rawState with emsaLen := 5 } 0x100 5 ∧
    (112 + 7) / 8 < rawState.hashId.length + rawState.emsaLen.toNat + 11 ∧
    rawState.hashId.length + rawState.emsaLen.toNat + 11 ≤ (rawState.emsaBits.toNat + 7) / 8 ∧
    Holds rawState rawState.emsaSrc.toNat [0xDE, 0xAD, 0xBE, 0xEF] :=
  ⟨by decide, by decide, ⟨4, by decide, by decide⟩, by decide, by decide, witness_holds⟩

/-- The coded block and the digest of program P3. -/
theorem witness_VerifyComparesWithTheRebuiltBlock :
    (codedState.emsaAux.toNat + codedState.emsaAuxLen.toNat ≤ 65536 ∧
      codedState.emsaSrc.toNat + codedState.emsaLen.toNat ≤ 65536) ∧
    65536 < ({ codedState with emsaAux := 65535, emsaAuxLen := 2 }).emsaAux.toNat + 2 ∧
    SomeUnwritten rawState 0x300 15 ∧ block15.length = codedState.emsaAuxLen.toNat ∧
    Holds codedState codedState.emsaAux.toNat block15 ∧
    Holds codedState codedState.emsaSrc.toNat [0xDE, 0xAD, 0xBE, 0xEF] :=
  ⟨by decide, by decide, ⟨0, by decide, by decide⟩, rfl,
    fun i h => (by decide : ∀ i : Fin 15, Memory.read codedState.buf (0x300 + i) = block15[i.val]?) ⟨i, h⟩,
    fun i h => (by decide : ∀ i : Fin 4, Memory.read codedState.buf (0x100 + i) =
      [0xDE#8, 0xAD#8, 0xBE#8, 0xEF#8][i.val]?) ⟨i, h⟩⟩

/-- Vector H8 and its range at the top of BUF. -/
theorem witness_NameWritesTheSchemeIdentifier :
    65536 < ({ rawState with emsaDst := 65527 }).emsaDst.toNat + 10 ∧
    ({ rawState with emsaDst := 65526 }).emsaDst.toNat + 10 ≤ 65536 := by decide

/-- Program P3: the block, and the block with its last byte flipped. -/
theorem witness_VerifyAcceptsTheBlockAndRejectsEveryFlip :
    emsaEncode codedState.hashId [0xDE, 0xAD, 0xBE, 0xEF] codedState.emsaBits.toNat = some block15 ∧
    Holds codedState codedState.emsaAux.toNat block15 ∧ block15.length = codedState.emsaAuxLen.toNat ∧
    (14 < block15.length ∧ block15[14]? ≠ some 0xEE) ∧
    Holds { codedState with buf := Memory.write codedState.buf 0x30E 0xEE } 0x300 (block15.set 14 0xEE) :=
  ⟨by decide, witness_VerifyComparesWithTheRebuiltBlock.2.2.2.2.1, rfl, by decide,
    fun i h => (by decide : ∀ i : Fin 15, Memory.read (Memory.write codedState.buf 0x30E 0xEE) (0x300 + i) =
      (block15.set 14 0xEE)[i.val]?) ⟨i, h⟩⟩

/-- The 64 bytes of a 512-bit digest, all 0. -/
def digest64 : State :=
  { idle with emsaLen := 64, emsaBits := 512, emsaDst := 0x1000, buf := Memory.writeRange [] 0 (List.replicate 64 0) }

theorem witness_VerifyAcceptsTheBlockAndRejectsEveryFlip_512 :
    (List.replicate 64 (0 : Byte)).length = digest64.emsaLen.toNat ∧ digest64.emsaBits = 512 ∧
    digest64.emsaLen = 64 ∧ digest64.emsaDst.toNat + 64 ≤ 65536 ∧
    digest64.emsaSrc.toNat + digest64.emsaLen.toNat ≤ 65536 ∧
    Holds digest64 digest64.emsaSrc.toNat (List.replicate 64 0) :=
  ⟨by decide, rfl, rfl, by decide, by decide, fun _ h => Memory.read_writeRange_inside _ _ _ h⟩

/-- Program P3 from its EMSA.ENCODE, with the descriptors of its EMSA.VERIFY already set. -/
theorem witness_EncodeThenVerifyAccepts :
    (∃ t, exec .emsaEncode { rawState with emsaAux := 0x300, emsaAuxLen := 15 } = .next t ∧
      Responds .ok { rawState with emsaAux := 0x300, emsaAuxLen := 15 } t) ∧
    (rawState.emsaBits.toNat + 7) / 8 = 15 ∧ rawState.emsaSrc.toNat + rawState.emsaLen.toNat ≤ rawState.emsaDst.toNat :=
  ⟨⟨_, rfl, rfl⟩, by decide, by decide⟩

theorem witness_ComparatorComputesEquality : emsaEncode [] [0xDE, 0xAD, 0xBE, 0xEF] 120 = some block15 := by decide

/-- `ready` meets the invariant and can step. -/
theorem witness_EveryStepKeepsTheInvariant : BlockInv (ready.withFetchWord 32 0x00021320) :=
  ⟨by decide, by decide, by decide, by decide, by decide, by decide, by decide, by decide⟩

theorem witness_ErrorsArePrecise :
    Status.invalidArgument ≠ .ok ∧
    ∃ t, exec .emsaRawdata { rawState with emsaExpect := 32, pending := [1] } = .next t ∧
      Responds .invalidArgument { rawState with emsaExpect := 32, pending := [1] } t := ⟨by decide, _, rfl, rfl⟩

theorem witness_OkLeavesTheErrorRegisters :
    (∃ t, exec (.csrwi 0x02 0) { idle with cause := 7 } = .next t ∧ Responds .ok { idle with cause := 7 } t) ∧
    writesCsr (.csrwi 0x02 0) .cause ∧ ¬writesCsr (.csrwi 0x22 0) .cause :=
  ⟨⟨_, rfl, rfl⟩, rfl, by unfold writesCsr; decide⟩

theorem witness_OnlyResetDestroysTheFieldInstance :
    (ready.withFetchWord 32 0x00041006).frozen = true ∧
    (ready.withFetchWord 32 0x00041006).inputs = [.command 0x00041006] ∧
    encode .reset ≠ 0x00041006 ∧
    (∃ t, step ({ idle with gfM := 4 }.withFetchWord 32 0x00000018) = .next t ∧ t.frozen = true) ∧
    needsField (.gfRed 3 1) = true ∧ idle.frozen = false := ⟨rfl, rfl, by decide, ⟨_, rfl, rfl⟩, rfl, rfl⟩

theorem witness_IllegalStateHasExactlyTheListedCauses :
    IllegalStateCause (.gfRed 3 1) idle ∧ IllegalStateCause .gfInit ready ∧ ¬IllegalStateCause .gfInit idle := by
  unfold IllegalStateCause writesCsr; decide

theorem witness_TheTwoUnitsAreIndependent :
    isEmsa .emsaUpdate = true ∧ isGf (.gfEnc 3 1 2) = true ∧ (∃ t, exec .emsaUpdate rawState = .next t) ∧
    ∃ t, exec (.gfEnc 3 1 2) (ops 7 9) = .next t := ⟨rfl, rfl, ⟨_, rfl⟩, ⟨_, rfl⟩⟩

theorem witness_EachStoreHasItsWriters :
    (∃ t, exec .emsaUpdate rawState = .next t ∧ t.pending ≠ rawState.pending) ∧
    ∃ t, exec (.csrwi 0x10 4) idle = .next t ∧ t.gfM ≠ idle.gfM :=
  ⟨⟨_, rfl, by decide⟩, ⟨_, rfl, by decide⟩⟩

/-- Two different states that agree on the written registers. -/
theorem witness_UnwrittenValuesCannotMatter :
    AgreeOnWritten (ops 7 9) { ops 7 9 with x := (ops 7 9).x.set 5 99 } ∧ (ops 7 9).x[5] ≠ 99 ∧
    hazard ((ops 7 9).withFetchWord 32 0x00021320) = false :=
  ⟨⟨rfl, by decide⟩, by decide, by decide⟩

theorem witness_CanonicalBufIsDeterminedByItsReads : Memory.wf [(0, 1), (65535, 2)] = true := by decide

theorem witness_PseudoInstructionsDoWhatTheySay :
    FieldReady (ops 7 14) ∧ badR ready.field 14 = none ∧ badN ready.field 7 = none ∧ badZ ready.field 0 = none :=
  ⟨witness_fieldReady 7 14, by decide, by decide, by decide⟩

end Sys2Proof.Tests
end

section
/-! SUPPORT. The ranges of the operands, of the table entries and of one reduction (42_gf_field.md R120, R121,
R124, R129), and from them the range of the value of every field command (30_encoding.md R65). -/

namespace Sys2Proof.Machine

open Sys2Proof.Safety

/-! ### One reduction (R124) -/

section Reduce

variable (f : Field)

/-- 2^M is ord + 1, as integers. -/
theorem Field.two_pow_eq : (2 : Int) ^ f.m = f.ord + 1 := by
  have h : (f.ord : Int) + 1 = f.q := by exact_mod_cast f.ord_succ
  rw [h, Field.q]
  push_cast
  rfl

/-- Folding adds the two digits of d in base 2^M (R124 (a)). -/
theorem foldOnce_of_digits {d hi lo : Int} (h : d = lo + (f.ord + 1) * hi) (h0 : 0 ≤ lo) (h1 : lo ≤ f.ord) :
    foldOnce f d = lo + hi := by
  obtain ⟨hdiv, hmod⟩ := (Int.ediv_emod_unique (a := d) (b := f.ord + 1) (q := hi) (r := lo) (by omega)).mpr
    ⟨h.symm, h0, by omega⟩
  rw [foldOnce, f.two_pow_eq, hdiv, hmod]

/-- A logarithm is left alone (R124 (b)). -/
theorem foldOnce_of_le_ord {d : Int} (h0 : 0 ≤ d) (h1 : d ≤ f.ord) : foldOnce f d = d := by
  rw [foldOnce_of_digits f (hi := 0) (lo := d) (by omega) h0 h1, add_zero]

/-- A sum above ord loses ord (R124 (c)). -/
theorem foldOnce_of_ord_lt {d : Int} (h0 : f.ord < d) (h1 : d ≤ 2 * f.ord) : foldOnce f d = d - f.ord := by
  rw [foldOnce_of_digits f (hi := 1) (lo := d - (f.ord + 1)) (by omega) (by omega) (by omega)]
  omega

/-- A negative difference gains ord (R124 (d)). -/
theorem foldOnce_of_neg {d : Int} (h0 : -(f.ord : Int) ≤ d) (h1 : d < 0) : foldOnce f d = d + f.ord := by
  rw [foldOnce_of_digits f (hi := -1) (lo := d + (f.ord + 1)) (by omega) (by omega) (by omega)]
  omega

/-- One folding takes the sum or difference of two logarithms to a logarithm (R124 (e)). -/
theorem foldOnce_range {d : Int} (h0 : -(f.ord : Int) ≤ d) (h1 : d ≤ 2 * f.ord) :
    0 ≤ foldOnce f d ∧ foldOnce f d ≤ f.ord := by
  rcases lt_or_ge d 0 with hneg | hnn
  · rw [foldOnce_of_neg f h0 hneg]; omega
  · rcases le_or_gt d f.ord with hle | hgt
    · rw [foldOnce_of_le_ord f hnn hle]; omega
    · rw [foldOnce_of_ord_lt f hgt h1]; omega

/-- Below ord the result is below ord (R163, R164). -/
theorem foldOnce_range_of_lt_ord {d : Int} (h0 : -(f.ord : Int) ≤ d) (h1 : d < f.ord) :
    0 ≤ foldOnce f d ∧ foldOnce f d ≤ f.ord - 1 := by
  rcases lt_or_ge d 0 with hneg | hnn
  · rw [foldOnce_of_neg f h0 hneg]; omega
  · rw [foldOnce_of_le_ord f hnn h1.le]; omega

end Reduce

/-! ### Operands and table entries -/

/-- A z operand in its set is taken as it is (R129). -/
theorem Field.elemZ_eq_ok {f : Field} {v : Word} {x : Nat} : f.elemZ v = .ok x ↔ x = v.toNat ∧ v.toNat < f.q := by
  unfold Field.elemZ
  split <;> simp <;> omega

/-- An n operand in its set is taken as it is (R129). -/
theorem Field.elemN_eq_ok {f : Field} {v : Word} {x : Nat} :
    f.elemN v = .ok x ↔ x = v.toNat ∧ 1 ≤ v.toNat ∧ v.toNat < f.q := by
  unfold Field.elemN
  split
  · simp; omega
  · split <;> simp <;> omega

/-- An r operand in its set is taken as it is (R129). -/
theorem Field.logR_eq_ok {f : Field} {v : Word} {a : Int} : f.logR v = .ok a ↔ a = v.toNat ∧ v.toNat ≤ f.ord := by
  unfold Field.logR
  split <;> simp <;> omega

/-- The log-table is read inside 1 to q - 1 only (R120). -/
theorem Field.log_domain {f : Field} {x : Nat} {a : Int} (h : f.log x = .ok a) : 1 ≤ x ∧ x < f.q := by
  unfold Field.log at h
  split at h
  · cases h
  · split at h
    · cases h
    · omega

/-- The exp-table is read inside 0 to ord only (R120). -/
theorem Field.exp_domain {f : Field} {i r : Int} (h : f.exp i = .ok r) : 0 ≤ i ∧ i ≤ f.ord := by
  unfold Field.exp at h
  split at h
  · cases h
  · omega

section Tables

variable {f : Field} (hv : TablesValid f)
include hv

/-- `LOG[x]` of a non-zero element is its entry (R120). -/
theorem Field.log_eq_entry {x : Nat} (h1 : 1 ≤ x) (hq : x < f.q) : f.log x = .ok (logEntry f x) := by
  have hlen : x < f.tables.log.length := by rw [hv.logLength]; exact hq
  simp [Field.log, logEntry, show x ≠ 0 by omega, show ¬f.q ≤ x by omega, hlen]

/-- `EXP[i]` of a logarithm is its entry (R120). -/
theorem Field.exp_eq_entry {i : Nat} (h : i ≤ f.ord) : f.exp i = .ok (expEntry f i) := by
  have hlen : i < f.tables.exp.length := by rw [hv.expLength, ← f.ord_succ]; omega
  simp [Field.exp, expEntry, show ¬f.ord < i by omega, hlen]

/-- A logarithm that was looked up is below ord (T1). -/
theorem Field.log_range {x : Nat} {a : Int} (h : f.log x = .ok a) : 0 ≤ a ∧ a < f.ord := by
  obtain ⟨h1, hq⟩ := Field.log_domain h
  rw [Field.log_eq_entry hv h1 hq] at h
  cases h
  exact ⟨Int.natCast_nonneg _, by exact_mod_cast hv.t1 x h1 hq⟩

/-- An exp-entry is a non-zero element (T2, T5). -/
theorem Field.expEntry_range (hm : 1 ≤ f.m) {i : Nat} (h : i ≤ f.ord) :
    1 ≤ expEntry f i ∧ expEntry f i < f.q := by
  rcases h.lt_or_eq with hlt | rfl
  · exact hv.t2 i hlt
  · rw [hv.t5]
    exact ⟨le_rfl, Nat.one_lt_two_pow (by omega)⟩

/-- An element that was looked up is non-zero. -/
theorem Field.exp_range (hm : 1 ≤ f.m) {i r : Int} (h : f.exp i = .ok r) : 1 ≤ r ∧ r < f.q := by
  obtain ⟨h0, h1⟩ := Field.exp_domain h
  lift i to Nat using h0
  rw [Field.exp_eq_entry hv (by exact_mod_cast h1)] at h
  cases h
  exact_mod_cast Field.expEntry_range hv hm (by exact_mod_cast h1)

end Tables

/-! ### What the chain of checks and lookups of a command can give -/

/-- Every value that e gives satisfies P. -/
def Gives (P : Int → Prop) (e : Except Fault Int) : Prop := ∀ r, e = .ok r → P r

section Gives

variable {P : Int → Prop} {f : Field}

/-- A value that is returned. -/
theorem gives_ok {r : Int} (h : P r) : Gives P (.ok r) := by
  rintro _ ⟨⟩
  exact h

/-- An undefined case gives nothing. -/
theorem gives_error {e : Fault} : Gives P (.error e) := nofun

/-- After a link of the chain its value is known. -/
theorem gives_bind {α : Type} {x : Except Fault α} {k : α → Except Fault Int}
    (h : ∀ a, x = .ok a → Gives P (k a)) : Gives P (x >>= k) := by
  intro r hr
  obtain ⟨a, ha, hk⟩ := except_bind_ok.mp hr
  exact h a ha r hk

/-- A zero test in the chain. -/
theorem gives_ite {c : Prop} [Decidable c] {e e' : Except Fault Int} (h : Gives P e) (h' : Gives P e') :
    Gives P (if c then e else e') := by
  split
  · exact h
  · exact h'

/-- After the check of an r operand it is 0 to ord. -/
theorem gives_logR {v : Word} {k : Int → Except Fault Int}
    (h : ∀ a : Int, 0 ≤ a → a ≤ f.ord → Gives P (k a)) : Gives P (f.logR v >>= k) :=
  gives_bind fun a ha => by
    obtain ⟨rfl, hle⟩ := Field.logR_eq_ok.mp ha
    exact h _ (Int.natCast_nonneg _) (by exact_mod_cast hle)

/-- After a lookup in the log-table the logarithm is 0 to ord - 1. -/
theorem gives_log (hv : TablesValid f) {x : Nat} {k : Int → Except Fault Int}
    (h : ∀ a : Int, 0 ≤ a → a < f.ord → Gives P (k a)) : Gives P (f.log x >>= k) :=
  gives_bind fun a ha => by
    obtain ⟨h0, h1⟩ := Field.log_range hv ha
    exact h a h0 h1

end Gives

/-! ### The result tags (30_encoding.md R65) -/

/-- The set of the tag z. -/
def IsZ (f : Field) (r : Int) : Prop := 0 ≤ r ∧ r < f.q

/-- The set of the tag n. -/
def IsN (f : Field) (r : Int) : Prop := 1 ≤ r ∧ r < f.q

/-- The set of the tag r. -/
def IsR (f : Field) (r : Int) : Prop := 0 ≤ r ∧ r ≤ f.ord

/-- The logarithms proper, without ord. -/
def IsLog (f : Field) (r : Int) : Prop := 0 ≤ r ∧ r ≤ f.ord - 1

/-- The sums of two logarithms proper. -/
def IsLogSum (f : Field) (r : Int) : Prop := 0 ≤ r ∧ r ≤ 2 * f.ord - 2

section Values

variable {f : Field} (hm1 : 1 ≤ f.m) (hm16 : f.m ≤ 16) (hv : TablesValid f) (v w : Word)

/-- Zero is an element. -/
theorem gives_zero : Gives (IsZ f) (.ok 0) :=
  gives_ok ⟨le_rfl, by exact_mod_cast Nat.two_pow_pos f.m⟩

section Elements
include hm1 hv

/-- A lookup in the exp-table gives an n result. -/
theorem gives_exp (i : Int) : Gives (IsN f) (f.exp i) := fun _ h => Field.exp_range hv hm1 h

/-- An n result is a z result. -/
theorem gives_exp_z (i : Int) : Gives (IsZ f) (f.exp i) := fun r h =>
  have hr := Field.exp_range hv hm1 h
  ⟨by omega, hr.2⟩

/-- The z results: zero, or the end of a lookup. -/
theorem z_results : ∀ e ∈ [f.mulValue v w, f.mulZrzValue v w, f.divValue v w, f.divZzrValue v w, f.sqrValue v,
    f.sqrtValue v, f.powValue v w], Gives (IsZ f) e := by
  have hexp := gives_exp_z hm1 hv
  have hone : Gives (IsZ f) (.ok 1) := gives_ok ⟨by omega, by exact_mod_cast Nat.one_lt_two_pow (by omega)⟩
  simp only [List.forall_mem_cons, List.not_mem_nil, false_implies, implies_true, and_true]
  refine ⟨?mul, ?mulZrz, ?div, ?divZzr, ?sqr, ?sqrt, ?pow⟩
  case mul | div =>
    exact gives_bind fun _ _ => gives_bind fun _ _ => gives_ite gives_zero <|
      gives_bind fun _ _ => gives_bind fun _ _ => hexp _
  case mulZrz | divZzr =>
    exact gives_bind fun _ _ => gives_bind fun _ _ => gives_ite gives_zero <| gives_bind fun _ _ => hexp _
  case sqr | sqrt => exact gives_bind fun _ _ => gives_ite gives_zero <| gives_bind fun _ _ => hexp _
  case pow =>
    exact gives_bind fun _ _ => gives_ite hone <|
      gives_ite (gives_ite gives_error gives_zero) <| gives_bind fun _ _ => hexp _

/-- The n results: each ends with a lookup. -/
theorem n_results : ∀ e ∈ [f.expValue v, f.mulNnnValue v w, f.mulNrrValue v w, f.mulNrnValue v w,
    f.divNnnValue v w, f.divNrrValue v w, f.invValue v], Gives (IsN f) e := by
  have hexp := gives_exp hm1 hv
  simp only [List.forall_mem_cons, List.not_mem_nil, false_implies, implies_true, and_true]
  refine ⟨?exp, ?mulNnn, ?mulNrr, ?mulNrn, ?divNnn, ?divNrr, ?inv⟩
  case exp => exact gives_bind fun _ _ => hexp _
  case mulNnn | divNnn =>
    exact gives_bind fun _ _ => gives_bind fun _ _ => gives_bind fun _ _ => gives_bind fun _ _ => hexp _
  case mulNrr | divNrr | inv => exact gives_bind fun _ _ => gives_bind fun _ _ => hexp _
  case mulNrn => exact gives_bind fun _ _ => gives_bind fun _ _ => gives_bind fun _ _ => hexp _

end Elements

section Logarithms

include hm16 in
/-- The sum or difference of two logarithms, reduced, is an r result (R124 (e)). -/
theorem gives_reduce {d : Int} (h0 : -(f.ord : Int) ≤ d) (h1 : d ≤ 2 * f.ord) :
    Gives (IsR f) (.ok (f.reduce d)) :=
  gives_ok <| by rw [Field.reduce_eq_foldOnce (by omega)]; exact foldOnce_range f h0 h1

include hm16 in
/-- A difference below ord, reduced, is a logarithm proper. -/
theorem gives_reduce_log {d : Int} (h0 : -(f.ord : Int) ≤ d) (h1 : d < f.ord) :
    Gives (IsLog f) (.ok (f.reduce d)) :=
  gives_ok <| by rw [Field.reduce_eq_foldOnce (by omega)]; exact foldOnce_range_of_lt_ord f h0 h1

include hm16 hv in
/-- The r results: a reduced sum or difference of two logarithms, or the complement of one to ord. -/
theorem r_results : ∀ e ∈ [f.mulRrrValue v w, f.mulRrnValue v w, f.mulRnnValue v w, f.divRrrValue v w,
    f.sqrRrValue v, f.invRrValue v], Gives (IsR f) e := by
  simp only [List.forall_mem_cons, List.not_mem_nil, false_implies, implies_true, and_true]
  refine ⟨?mulRrr, ?mulRrn, ?mulRnn, ?divRrr, ?sqrRr, ?invRr⟩
  case mulRrr =>
    exact gives_logR fun a _ _ => gives_logR fun b _ _ => gives_reduce hm16 (by omega) (by omega)
  case mulRrn =>
    exact gives_logR fun a _ _ => gives_bind fun _ _ => gives_log hv fun b _ _ =>
      gives_reduce hm16 (by omega) (by omega)
  case mulRnn =>
    exact gives_bind fun _ _ => gives_bind fun _ _ => gives_log hv fun a _ _ => gives_log hv fun b _ _ =>
      gives_reduce hm16 (by omega) (by omega)
  case divRrr =>
    exact gives_logR fun a _ _ => gives_logR fun b _ _ => gives_reduce hm16 (by omega) (by omega)
  case sqrRr =>
    refine gives_logR fun a _ _ => ?_
    rw [Int.shiftLeft_eq]
    exact gives_reduce hm16 (by omega) (by omega)
  case invRr => exact gives_logR fun a _ _ => gives_ok ⟨by omega, by omega⟩

include hm16 hv in
/-- The results that are a logarithm proper: GF.LOG's (T1), and a difference whose first term is one. -/
theorem log_results : ∀ e ∈ [f.logValue v, f.divRnnValue v w, f.divRnrValue v w], Gives (IsLog f) e := by
  simp only [List.forall_mem_cons, List.not_mem_nil, false_implies, implies_true, and_true]
  refine ⟨?log, ?divRnn, ?divRnr⟩
  case log =>
    refine gives_bind fun x _ a ha => ?_
    obtain ⟨h0, h1⟩ := Field.log_range hv ha
    exact ⟨h0, by omega⟩
  case divRnn =>
    exact gives_bind fun _ _ => gives_bind fun _ _ => gives_log hv fun a _ _ => gives_log hv fun b _ _ =>
      gives_reduce_log hm16 (by omega) (by omega)
  case divRnr =>
    exact gives_bind fun _ _ => gives_logR fun b _ _ => gives_log hv fun a _ _ =>
      gives_reduce_log hm16 (by omega) (by omega)

include hv in
/-- GF.INV.RN's result is not 0, since no logarithm is ord (R177). -/
theorem invRn_result : Gives (fun r => 1 ≤ r ∧ r ≤ f.ord) (f.invRnValue v) :=
  gives_bind fun _ _ => gives_log hv fun a _ _ => gives_ok ⟨by omega, by omega⟩

include hv in
/-- The l results of logarithms: a plain sum, and a plain double (R147, R172). -/
theorem l_results : ∀ e ∈ [f.mulLnnValue v w, f.sqrLnValue v], Gives (IsLogSum f) e := by
  simp only [List.forall_mem_cons, List.not_mem_nil, false_implies, implies_true, and_true]
  refine ⟨?mulLnn, ?sqrLn⟩
  case mulLnn =>
    exact gives_bind fun _ _ => gives_bind fun _ _ => gives_log hv fun a _ _ => gives_log hv fun b _ _ =>
      gives_ok ⟨by omega, by omega⟩
  case sqrLn =>
    refine gives_bind fun _ _ => gives_log hv fun a _ _ => ?_
    rw [Int.shiftLeft_eq]
    exact gives_ok ⟨by omega, by omega⟩

/-- GF.MUL.LLL's result is the plain sum (R143). -/
theorem mulLll_result {r : Int} (h : f.mulLllValue v w = .ok r) :
    r = v.toNat + w.toNat ∧ (v.toNat < 2 ^ 31 → w.toNat < 2 ^ 31 → r < 2 ^ 32) := by
  cases h
  exact ⟨rfl, fun _ _ => by omega⟩

end Logarithms

end Values

/-- Settles O29: each value ends with a return, a lookup or a reduction, whose operands the checks and lookups
before it keep in range. -/
theorem resultsStayInTheirTagSets : Obligations.ResultsStayInTheirTagSets := fun _ hm1 hm16 hv v w r =>
  ⟨fun e he => z_results hm1 hv v w e he r, fun e he => n_results hm1 hv v w e he r,
    fun e he => r_results hm16 hv v w e he r, fun e he => log_results hm16 hv v w e he r,
    invRn_result hv v r, fun h0 h1 => gives_reduce hm16 h0 h1 r,
    fun e he => l_results hv v w e he r, mulLll_result v w⟩

end Sys2Proof.Machine
end

section
/-! SUPPORT. The two units do not share state but X, BUF and the error registers (00_scope.md R2): a change of
one unit's state is carried unchanged through every command of the other. -/

namespace Sys2Proof.Machine

open Sys2Proof.Safety

/-! ### A change of state that commands carry along -/

/-- The second outcome is the first with g applied to its state. -/
def CarriedBy (g : State → State) (r r' : Result) : Prop := SameOutcome (fun t t' => t' = g t) r r'

/-- The change g does not reach what every command shares: BUF and the error entry, and it goes past the
answer. -/
structure PastCommon (g : State → State) : Prop where
  buf : ∀ s, (g s).buf = s.buf
  respond : ∀ s c, (g s).respond c = g (s.respond c)
  latchError : ∀ s c word, (g s).latchError c word = g (s.latchError c word)

/-- The GF unit's state and X lie beside what every command shares. -/
theorem pastCommon_withGfOf (u : State) : PastCommon (withGfOf u) :=
  ⟨fun _ => rfl, fun _ _ => rfl, fun _ _ _ => rfl⟩

/-- The EMSA unit's state lies beside what every command shares. -/
theorem pastCommon_withEmsaOf (u : State) : PastCommon (withEmsaOf u) :=
  ⟨fun _ => rfl, fun _ _ => rfl, fun _ _ _ => rfl⟩

/-- A test that g does not touch takes the same branch on both sides. -/
theorem carriedBy_ite {g : State → State} {c : Prop} [Decidable c] {a a' b b' : Result}
    (ha : CarriedBy g a a') (hb : CarriedBy g b b') :
    CarriedBy g (if c then a else b) (if c then a' else b') := by
  split
  · exact ha
  · exact hb

section Common

variable {g : State → State} (hg : PastCommon g)
include hg

/-- The OK answer comes after the change. -/
theorem carriedBy_done (s : State) : CarriedBy g (done s) (done (g s)) := hg.respond s _

/-- So does the error entry (R203). -/
theorem carriedBy_raise (i : Instr) (c : Status) (s : State) : CarriedBy g (raise i c s) (raise i c (g s)) := by
  show ((g s).latchError c (encode i)).respond (.status c) = g ((s.latchError c (encode i)).respond (.status c))
  rw [hg.latchError, hg.respond]

/-- Both sides read the same bytes of BUF, or neither does. -/
theorem carriedBy_withBytes {a n : Nat} {k k' : List Byte → State → Result} {s : State}
    (hk : ∀ bs, CarriedBy g (k bs s) (k' bs (g s))) :
    CarriedBy g (withBytes a n k s) (withBytes a n k' (g s)) := by
  unfold withBytes
  rw [hg.buf]
  cases Memory.readRange s.buf a n with
  | none => rfl
  | some bs => exact hk bs

end Common

/-! ### The EMSA commands under another GF unit -/

section Emsa

variable (u s : State)

/-- Output goes to BUF and EMSA_OUTLEN (R25, R43), never to the GF unit or X. -/
theorem carriedBy_writeOut (a : Nat) (bs : List Byte) :
    CarriedBy (withGfOf u) (writeOut a bs s) (writeOut a bs (withGfOf u s)) := rfl

/-- EMSA.UPDATE (R95). -/
theorem emsaUpdate_carries : CarriedBy (withGfOf u) (execEmsaUpdate s) (execEmsaUpdate (withGfOf u s)) :=
  have hg := pastCommon_withGfOf u
  carriedBy_ite (carriedBy_raise hg ..) <| carriedBy_ite (carriedBy_raise hg ..) <|
    carriedBy_withBytes hg fun bs => carriedBy_done hg (s.setPending (s.pending ++ bs))

/-- EMSA.SETID and EMSA.SETNAME (R96, R97). -/
theorem loadStore_carries (i : Instr) (cap : Nat) {store : State → List Byte → State}
    (hstore : ∀ bs, store (withGfOf u s) bs = withGfOf u (store s bs)) :
    CarriedBy (withGfOf u) (loadStore i cap store s) (loadStore i cap store (withGfOf u s)) :=
  have hg := pastCommon_withGfOf u
  carriedBy_ite (carriedBy_raise hg ..) <| carriedBy_ite (carriedBy_raise hg ..) <|
    carriedBy_ite (carriedBy_raise hg ..) <|
      carriedBy_withBytes hg fun bs => by rw [hstore]; exact carriedBy_done hg (store s bs)

/-- EMSA.RAWDATA (R98, R99). -/
theorem emsaRawdata_carries : CarriedBy (withGfOf u) (execEmsaRawdata s) (execEmsaRawdata (withGfOf u s)) := by
  have hg := pastCommon_withGfOf u
  have hashed : CarriedBy (withGfOf u) (rawdataHashed s) (rawdataHashed (withGfOf u s)) :=
    carriedBy_ite (carriedBy_raise hg ..) (carriedBy_writeOut u (s.setPending []) ..)
  have raw : CarriedBy (withGfOf u) (rawdataRaw s) (rawdataRaw (withGfOf u s)) :=
    carriedBy_ite (carriedBy_raise hg ..) <| carriedBy_ite (carriedBy_raise hg _ _ (s.setPending []))
      (carriedBy_writeOut u (s.setPending []) ..)
  have mode : (withGfOf u s).emsaMode = s.emsaMode := rfl
  unfold execEmsaRawdata
  rw [mode]
  cases s.emsaMode with
  | hashed => exact hashed
  | raw => exact raw

/-- EMSA.ENCODE (R101). -/
theorem emsaEncode_carries : CarriedBy (withGfOf u) (execEmsaEncode s) (execEmsaEncode (withGfOf u s)) := by
  have hg := pastCommon_withGfOf u
  refine carriedBy_ite (carriedBy_raise hg ..) <| carriedBy_ite (carriedBy_raise hg ..) <|
    carriedBy_withBytes hg fun digest => ?_
  have hashId : (withGfOf u s).hashId = s.hashId := rfl
  have bits : (withGfOf u s).emsaBits = s.emsaBits := rfl
  rw [hashId, bits]
  cases emsaEncode s.hashId digest s.emsaBits.toNat with
  | none => exact carriedBy_raise hg _ _ (s.setPending [])
  | some block => exact carriedBy_writeOut u (s.setPending []) ..

/-- EMSA.VERIFY (R104). -/
theorem emsaVerify_carries : CarriedBy (withGfOf u) (execEmsaVerify s) (execEmsaVerify (withGfOf u s)) :=
  have hg := pastCommon_withGfOf u
  carriedBy_ite (carriedBy_raise hg ..) <| carriedBy_ite (carriedBy_raise hg ..) <|
    carriedBy_withBytes hg fun coded => carriedBy_withBytes hg fun raw =>
      carriedBy_done hg ((s.setPending []).setResult (verifyValue s.hashId raw coded s.emsaBits.toNat))

/-- EMSA.NAME (R107). -/
theorem emsaName_carries : CarriedBy (withGfOf u) (execEmsaName s) (execEmsaName (withGfOf u s)) :=
  carriedBy_ite (carriedBy_raise (pastCommon_withGfOf u) ..) (carriedBy_writeOut u s ..)

/-- Every EMSA command does the same whatever the GF unit and X hold. -/
theorem emsa_carries {i : Instr} (h : isEmsa i = true) :
    CarriedBy (withGfOf u) (exec i s) (exec i (withGfOf u s)) := by
  cases i with
  | emsaUpdate => exact emsaUpdate_carries u s
  | emsaRawdata => exact emsaRawdata_carries u s
  | emsaEncode => exact emsaEncode_carries u s
  | emsaVerify => exact emsaVerify_carries u s
  | emsaName => exact emsaName_carries u s
  | emsaSetid => exact loadStore_carries u s _ _ fun _ => rfl
  | emsaSetname => exact loadStore_carries u s _ _ fun _ => rfl
  | _ => exact absurd h Bool.false_ne_true

end Emsa

/-! ### The GF commands under another EMSA unit -/

section Gf

variable (u s : State)

/-- The value of a field command goes to X and never to the EMSA unit. -/
theorem writeResult_carries (rd : Reg) (v : Except Fault Int) :
    CarriedBy (withEmsaOf u) (writeResult rd v s) (writeResult rd v (withEmsaOf u s)) := by
  cases v with
  | error e => rfl
  | ok v => exact carriedBy_done (pastCommon_withEmsaOf u) (s.writeReg rd (u32 v))

/-- A field command with one source. -/
theorem fieldUnary_carries (i : Instr) (rd rs1 : Reg) (op : Field → Word → Except Fault Int) :
    CarriedBy (withEmsaOf u) (fieldUnary i rd rs1 op s) (fieldUnary i rd rs1 op (withEmsaOf u s)) :=
  carriedBy_ite (writeResult_carries u s ..) (carriedBy_raise (pastCommon_withEmsaOf u) ..)

/-- A field command with two sources. -/
theorem fieldBinary_carries (i : Instr) (rd rs1 rs2 : Reg) (op : Field → Word → Word → Except Fault Int) :
    CarriedBy (withEmsaOf u) (fieldBinary i rd rs1 rs2 op s) (fieldBinary i rd rs1 rs2 op (withEmsaOf u s)) :=
  carriedBy_ite (writeResult_carries u s ..) (carriedBy_raise (pastCommon_withEmsaOf u) ..)

/-- GF.INIT (R125). -/
theorem gfInit_carries : CarriedBy (withEmsaOf u) (execGfInit s) (execGfInit (withEmsaOf u s)) :=
  have hg := pastCommon_withEmsaOf u
  carriedBy_ite (carriedBy_raise hg ..) <| carriedBy_ite (carriedBy_done hg s.freeze) (carriedBy_raise hg ..)

/-- GF.ENC (R191). -/
theorem gfEnc_carries (rd rs1 rs2 : Reg) :
    CarriedBy (withEmsaOf u) (execGfEnc rd rs1 rs2 s) (execGfEnc rd rs1 rs2 (withEmsaOf u s)) :=
  have hg := pastCommon_withEmsaOf u
  carriedBy_ite (carriedBy_done hg ((s.setBuf _).writeReg rd 2)) (carriedBy_raise hg ..)

/-- GF.DEC (R192). -/
theorem gfDec_carries (rd rs1 : Reg) :
    CarriedBy (withEmsaOf u) (execGfDec rd rs1 s) (execGfDec rd rs1 (withEmsaOf u s)) :=
  have hg := pastCommon_withEmsaOf u
  carriedBy_ite (carriedBy_withBytes hg fun _ => carriedBy_done hg (s.writeReg rd _)) (carriedBy_raise hg ..)

/-- Every GF command does the same whatever the EMSA unit holds. -/
theorem gf_carries {i : Instr} (h : isGf i = true) :
    CarriedBy (withEmsaOf u) (exec i s) (exec i (withEmsaOf u s)) := by
  cases i with
  | gfInit => exact gfInit_carries u s
  | gfEnc rd rs1 rs2 => exact gfEnc_carries u s rd rs1 rs2
  | gfDec rd rs1 => exact gfDec_carries u s rd rs1
  | gfLog | gfExp | gfRed | gfSqr | gfSqrLn | gfSqrRr | gfSqrt | gfInv | gfInvRn | gfInvRr =>
    exact fieldUnary_carries u s ..
  | gfMul | gfMulNnn | gfMulLll | gfMulRrr | gfMulNrr | gfMulRrn | gfMulLnn | gfMulRnn | gfMulNrn | gfMulZrz
  | gfDiv | gfDivNnn | gfDivRnn | gfDivRnr | gfDivNrr | gfDivZzr | gfDivRrr | gfPow =>
    exact fieldBinary_carries u s ..
  | _ => exact absurd h Bool.false_ne_true

end Gf

/-! ### The frame, from the independence -/

/-- A command that carries a change along keeps what the change would write: run at a state the change leaves
alone, it answers one that the change leaves alone. -/
theorem CarriedBy.fixes {g : State → State} {i : Instr} {s t : State} (hs : g s = s)
    (hc : CarriedBy g (exec i s) (exec i (g s))) (ht : exec i s = .next t) : t = g t := by
  rwa [hs, ht] at hc

/-- An EMSA command leaves GF_M, FROZEN and X alone. -/
theorem emsa_keeps_gf {i : Instr} {s t : State} (h : isEmsa i = true) (ht : exec i s = .next t) :
    SameGf s t ∧ SameRegs s t := by
  have hfix : t = withGfOf s t := CarriedBy.fixes rfl (emsa_carries s s h) ht
  rw [hfix]
  exact ⟨⟨rfl, rfl⟩, rfl, rfl⟩

/-- A GF command leaves the EMSA unit alone. -/
theorem gf_keeps_emsa {i : Instr} {s t : State} (h : isGf i = true) (ht : exec i s = .next t) : SameEmsa s t := by
  have hfix : t = withEmsaOf s t := CarriedBy.fixes rfl (gf_carries s s h) ht
  rw [hfix]
  exact ⟨⟨rfl, rfl, rfl, rfl, rfl, rfl, rfl, rfl⟩, ⟨rfl, rfl⟩, rfl, rfl, rfl⟩

/-- Settles O55: each command of one unit carries a change of the other unit's state along, and so keeps that
state. -/
theorem theTwoUnitsAreIndependent : Obligations.TheTwoUnitsAreIndependent :=
  ⟨fun _ s u h => ⟨fun _ => emsa_keeps_gf h, emsa_carries u s h⟩,
    fun _ s u h => ⟨fun _ => gf_keeps_emsa h, gf_carries u s h⟩⟩

end Sys2Proof.Machine
end

section
/-! SUPPORT. How a command and a step end when they answer a next state: the list of cases that the proofs about
every command and every step go through. -/

namespace Sys2Proof.Machine

open Sys2Proof.Safety

/-! ### How a command ends -/

/-- An error leaves PENDING alone, or was raised by EMSA.RAWDATA or EMSA.ENCODE and empties it (R93). -/
theorem pendingAfterError_cases (i : Instr) (c : Status) (s : State) :
    pendingAfterError i c s = s ∨
      (i = .emsaRawdata ∨ i = .emsaEncode) ∧ pendingAfterError i c s = s.setPending [] := by
  unfold pendingAfterError
  split
  · next hc => exact .inr ⟨hc.imp And.left And.left, rfl⟩
  · exact .inl rfl

/-- OK is no error status of any command (R215). -/
theorem ok_not_mem_statusesOf (i : Instr) (s : State) : .ok ∉ statusesOf i s := by
  cases i with
  | emsaRawdata =>
    show Status.ok ∉ if s.emsaMode = .raw then _ else _
    split
    · decide
    · decide
  | _ => exact of_decide_eq_true rfl

/-- A command ends with an error status, which leaves all but PENDING and the error registers, or with one of the
effects and OK. -/
theorem exec_ends {i : Instr} {s t : State} (ht : exec i s = .next t) :
    (∃ c bs, c ≠ .ok ∧ (bs = s.pending ∨ (i = .emsaRawdata ∨ i = .emsaEncode) ∧ bs = []) ∧
      t = ((s.setPending bs).latchError c (encode i)).respond (.status c)) ∨
    ∃ u, Effect s i u ∧ t = u.respond (.status .ok) := by
  rcases exec_next ht with ⟨c, hc, -, rfl⟩ | ⟨-, u, e, rfl⟩
  · have hne : c ≠ .ok := fun h0 => ok_not_mem_statusesOf i s (h0 ▸ hc)
    rcases pendingAfterError_cases i c s with h1 | ⟨hi, h1⟩
    · exact .inl ⟨c, s.pending, hne, .inl rfl, by rw [h1]; rfl⟩
    · exact .inl ⟨c, [], hne, .inr ⟨hi, rfl⟩, by rw [h1]⟩
  · exact .inr ⟨u, e, rfl⟩

/-! ### How a step ends -/

/-- Everything a presented word can lead to when it answers a next state: the outcome of the command it decodes
to, or the error entry of IllegalCommand (R80 (1), R204). -/
theorem runCommand_next {w : Word} {s t : State} (h : runCommand w s = .next t) :
    (∃ i, decode w = .ok i ∧ exec i s.countCommand = .next t) ∨
      t = (s.countCommand.latchError .illegalCommand w).respond (.status .illegalCommand) := by
  unfold runCommand at h
  cases hd : decode w with
  | ok i => rw [hd] at h; exact .inl ⟨i, rfl, h⟩
  | error r => rw [hd] at h; injection h with h; exact .inr h.symm

/-- Everything the host's read of BUF can do when it answers a next state (R47). -/
theorem hostMemRead_next {a : BitVec 16} {s t : State} (h : hostMemRead a s = .next t) :
    ∃ b, t = s.respond (.memData b) := by
  unfold hostMemRead at h
  split at h
  · next b _ => injection h with h; exact ⟨b, h.symm⟩
  · cases h

/-- Everything a step can do: idle with an empty queue, or take the host's next action (R13, R220). -/
theorem step_next {s t : State} (h : step s = .next t) :
    (s.inputs = [] ∧ t = s) ∨ ∃ a rest, s.inputs = a :: rest ∧ runAction a (s.takeInput rest) = .next t := by
  unfold step at h
  cases hi : s.inputs with
  | nil => rw [hi] at h; injection h with h; exact .inl ⟨rfl, h.symm⟩
  | cons a rest => rw [hi] at h; exact .inr ⟨a, rest, rfl, h⟩

end Sys2Proof.Machine
end

section
/-! SUPPORT. The invariant of the block, kept by each named update of the state (10_state.md R17, R20, R22, R29,
R30), hence by every effect and every error entry, hence by every step. -/

namespace Sys2Proof.Safety

open Sys2Proof.Machine

/-! ### Each update keeps the invariant -/

/-- The code of an error is not 0 as CAUSE holds it (R201, R203). -/
theorem cause_ne_zero_of_error {c : Status} (hc : c ≠ .ok) : c.code.setWidth 32 ≠ (0 : Word) := by
  cases c with
  | ok => exact absurd rfl hc
  | _ => decide

section Updates

variable {s : State} (h : BlockInv s)
include h

/-- X is outside the invariant. -/
theorem BlockInv.writeReg (r : Reg) (v : Word) : BlockInv (s.writeReg r v) :=
  ⟨h.bufWf, h.causeCode, h.causeClear, h.degree, h.pendingCap, h.idCap, h.nameCap, h.outLen⟩

/-- The answers are outside the invariant. -/
theorem BlockInv.respond (r : Response) : BlockInv (s.respond r) :=
  ⟨h.bufWf, h.causeCode, h.causeClear, h.degree, h.pendingCap, h.idCap, h.nameCap, h.outLen⟩

/-- The host's queue is outside the invariant. -/
theorem BlockInv.takeInput (rest : List HostAction) : BlockInv (s.takeInput rest) :=
  ⟨h.bufWf, h.causeCode, h.causeClear, h.degree, h.pendingCap, h.idCap, h.nameCap, h.outLen⟩

/-- The index is outside the invariant. -/
theorem BlockInv.countCommand : BlockInv s.countCommand :=
  ⟨h.bufWf, h.causeCode, h.causeClear, h.degree, h.pendingCap, h.idCap, h.nameCap, h.outLen⟩

/-- EMSA_RESULT is outside the invariant. -/
theorem BlockInv.setResult (b : Bool) : BlockInv (s.setResult b) :=
  ⟨h.bufWf, h.causeCode, h.causeClear, h.degree, h.pendingCap, h.idCap, h.nameCap, h.outLen⟩

/-- A canonical memory may replace BUF (R28). -/
theorem BlockInv.setBuf {m : Memory} (hm : Memory.wf m = true) : BlockInv (s.setBuf m) :=
  ⟨hm, h.causeCode, h.causeClear, h.degree, h.pendingCap, h.idCap, h.nameCap, h.outLen⟩

/-- Bytes within the capacity of the mode may replace PENDING (R29). -/
theorem BlockInv.setPending {bs : List Byte} (hb : bs.length ≤ s.pendingCap) : BlockInv (s.setPending bs) :=
  ⟨h.bufWf, h.causeCode, h.causeClear, h.degree, hb, h.idCap, h.nameCap, h.outLen⟩

/-- Bytes within ID_CAP may replace HASH_ID (R30). -/
theorem BlockInv.setHashId {bs : List Byte} (hb : bs.length ≤ Config.idCap) : BlockInv (s.setHashId bs) :=
  ⟨h.bufWf, h.causeCode, h.causeClear, h.degree, h.pendingCap, hb, h.nameCap, h.outLen⟩

/-- Bytes within NAME_CAP may replace HASH_NAME (R30). -/
theorem BlockInv.setHashName {bs : List Byte} (hb : bs.length ≤ Config.nameCap) : BlockInv (s.setHashName bs) :=
  ⟨h.bufWf, h.causeCode, h.causeClear, h.degree, h.pendingCap, h.idCap, hb, h.outLen⟩

/-- A length that fits BUF may be recorded in EMSA_OUTLEN (R25). -/
theorem BlockInv.setOutLen {n : Nat} (hn : n ≤ Config.bufSize) : BlockInv (s.setOutLen n) :=
  ⟨h.bufWf, h.causeCode, h.causeClear, h.degree, h.pendingCap, h.idCap, h.nameCap,
    (BitVec.toNat_ofNat n 32).le.trans ((Nat.mod_le _ _).trans hn)⟩

/-- FROZEN may be set when the degree is legal (R125). -/
theorem BlockInv.freeze (hd : 1 ≤ s.gfM.toNat ∧ s.gfM.toNat ≤ 16) : BlockInv s.freeze :=
  ⟨h.bufWf, h.causeCode, h.causeClear, fun _ => hd, h.pendingCap, h.idCap, h.nameCap, h.outLen⟩

/-- An error status is latched with its word (R203): its code is not 0. -/
theorem BlockInv.latchError {c : Status} (hc : c ≠ .ok) (word : Word) : BlockInv (s.latchError c word) where
  bufWf := h.bufWf
  causeCode := by
    rw [State.latchError_cause, BitVec.toNat_setWidth]
    exact (Nat.mod_le _ _).trans c.code_le
  causeClear h0 := absurd h0 (cause_ne_zero_of_error hc)
  degree := h.degree
  pendingCap := h.pendingCap
  idCap := h.idCap
  nameCap := h.nameCap
  outLen := h.outLen

/-- Output that fits BUF may be stored and its length recorded (R25, R43). -/
theorem BlockInv.output {a : Nat} {bs : List Byte} (hf : a + bs.length ≤ Config.bufSize) :
    BlockInv ((s.setBuf (Memory.writeRange s.buf a bs)).setOutLen bs.length) :=
  (h.setBuf (Memory.wf_writeRange h.bufWf hf)).setOutLen (by omega)

/-- An unlocked CSR may be written: a new GF_M meets FROZEN = 0 (R19), and the mode changes the capacity of an
empty PENDING only (R22). -/
theorem BlockInv.writeCsr {c : Csr} (hl : s.csrLocked c = false) (v : Word) : BlockInv (s.writeCsr c v) := by
  cases c with
  | cause =>
    exact ⟨h.bufWf, Nat.zero_le _, fun _ => rfl, h.degree, h.pendingCap, h.idCap, h.nameCap, h.outLen⟩
  | gfM =>
    have hf : s.frozen = false := hl
    exact ⟨h.bufWf, h.causeCode, h.causeClear, fun ht => absurd (hf.symm.trans ht) Bool.false_ne_true,
      h.pendingCap, h.idCap, h.nameCap, h.outLen⟩
  | emsaMode =>
    have hp : s.pending = [] := by simpa [State.csrLocked, State.emsaBusy] using hl
    refine ⟨h.bufWf, h.causeCode, h.causeClear, h.degree, ?_, h.idCap, h.nameCap, h.outLen⟩
    show s.pending.length ≤ _
    rw [hp]
    exact Nat.zero_le _
  | _ => exact ⟨h.bufWf, h.causeCode, h.causeClear, h.degree, h.pendingCap, h.idCap, h.nameCap, h.outLen⟩

end Updates

/-- Reset establishes the invariant, whatever stood before. -/
theorem blockInv_resetBlock (s : State) : BlockInv s.resetBlock where
  bufWf := rfl
  causeCode := Nat.zero_le _
  causeClear _ := rfl
  degree := nofun
  pendingCap := Nat.zero_le _
  idCap := Nat.zero_le _
  nameCap := Nat.zero_le _
  outLen := Nat.zero_le _

end Sys2Proof.Safety

namespace Sys2Proof.Machine

open Sys2Proof.Safety

/-! ### Every command and every step keeps it -/

/-- Every effect keeps the invariant. -/
theorem Effect.keepsInv {i : Instr} {s u : State} (e : Effect s i u) (h : BlockInv s) : BlockInv u := by
  cases e with
  | reg rd v => exact h.writeReg rd v
  | csr c v _ _ unlocked => exact h.writeCsr unlocked v
  | reset => exact blockInv_resetBlock s
  | init _ degree => exact h.freeze degree
  | enc rd _ _ a v fits => exact (h.setBuf (Memory.wf_writeRange h.bufWf fits)).writeReg rd 2
  | update bs cap => exact h.setPending (by rwa [List.length_append])
  | setid bs _ cap => exact h.setHashId cap
  | setname bs _ cap => exact h.setHashName cap
  | rawdata a bs fits | encode a bs fits => exact (h.setPending (Nat.zero_le _)).output fits
  | verify result => exact (h.setPending (Nat.zero_le _)).setResult result
  | name a bs fits => exact h.output fits

/-- Every command keeps the invariant, however it ends. -/
theorem exec_keepsInv {i : Instr} {s t : State} (ht : exec i s = .next t) (h : BlockInv s) : BlockInv t := by
  rcases exec_ends ht with ⟨c, bs, hc, hbs, rfl⟩ | ⟨u, e, rfl⟩
  · have hcap : bs.length ≤ s.pendingCap := by
      rcases hbs with rfl | ⟨-, rfl⟩
      · exact h.pendingCap
      · exact Nat.zero_le _
    exact ((h.setPending hcap).latchError hc _).respond _
  · exact (e.keepsInv h).respond _

/-- Every action of the host keeps the invariant. -/
theorem runAction_keepsInv {a : HostAction} {s t : State} (ht : runAction a s = .next t) (h : BlockInv s) :
    BlockInv t := by
  cases a with
  | command w =>
    rcases runCommand_next ht with ⟨i, -, hx⟩ | rfl
    · exact exec_keepsInv hx h.countCommand
    · exact (h.countCommand.latchError (c := .illegalCommand) nofun w).respond _
  | memWrite addr byte =>
    cases ht
    exact h.setBuf (Memory.wf_write byte h.bufWf addr.isLt)
  | memRead addr =>
    obtain ⟨b, rfl⟩ := hostMemRead_next ht
    exact h.respond _
  | regRead r =>
    cases ht
    exact h.respond _
  | resetInput =>
    cases ht
    exact blockInv_resetBlock s

/-- Settles O50: each update keeps the invariant, so each effect, each error entry and each host action does. -/
theorem everyStepKeepsTheInvariant : Obligations.EveryStepKeepsTheInvariant := by
  intro s t h ht
  rcases step_next ht with ⟨-, rfl⟩ | ⟨a, rest, -, ha⟩
  · exact h
  · exact runAction_keepsInv ha (h.takeInput rest)

end Sys2Proof.Machine
end

section
/-! SUPPORT. Two states that differ in X and the written marks at most (10_state.md R12): a relation between them
that every register write keeps is kept by every command, as long as the registers the command reads hold the
same. With the marks free this is O58; with the values of the unwritten registers free it is O57. -/

namespace Sys2Proof.Machine

open Sys2Proof.Safety

/-! ### Relations that look at X and the marks only -/

/-- State t with X and the written marks of u. -/
def withXOf (u t : State) : State := { t with x := u.x, xWritten := u.xWritten }

/-- The relation holds of states that differ in X and the marks at most, looks at nothing else of them, and is
kept when both write the same value to the same register. -/
structure OnRegs (rel : State → State → Prop) : Prop where
  refl : ∀ s, rel s s
  differ : ∀ {s t}, rel s t → t = withXOf t s
  carry : ∀ {s t}, rel s t → ∀ u, rel (withXOf s u) (withXOf t u)
  writeReg : ∀ {s t}, rel s t → ∀ r v, rel (s.writeReg r v) (t.writeReg r v)

/-- Outcomes of one kind that are related in one way are related in every way that this implies. -/
theorem sameOutcome_imp {rel rel' : State → State → Prop} {r r' : Result} (h : SameOutcome rel r r')
    (hi : ∀ t t', r = .next t → rel t t' → rel' t t') : SameOutcome rel' r r' := by
  cases r with
  | next t =>
    cases r' with
    | next t' => exact hi t t' rfl h
    | fault | refused => exact h
  | fault | refused => cases r' <;> exact h

section Commands

variable {rel : State → State → Prop} (hr : OnRegs rel) {s t : State} (h : rel s t)
include hr h

/-- An update that reaches neither X nor the marks keeps the relation. -/
theorem OnRegs.update (f : State → State) (hf : ∀ u v, f (withXOf u v) = withXOf u (f v)) : rel (f s) (f t) := by
  have hs : f s = withXOf s (f s) := hf s s
  have ht : f t = withXOf t (f s) := (congrArg f (hr.differ h)).trans (hf t s)
  rw [hs, ht]
  exact hr.carry h (f s)

/-- What is computed from neither X nor the marks is the same. -/
theorem OnRegs.same {α : Type} (g : State → α) (hg : ∀ u v, g (withXOf u v) = g v) : g t = g s :=
  (congrArg g (hr.differ h)).trans (hg t s)

/-- Both answer OK. -/
theorem OnRegs.done : SameOutcome rel (done s) (done t) :=
  hr.update h (·.respond (.status .ok)) fun _ _ => rfl

/-- Both make the error entry (R203). -/
theorem OnRegs.raiseWord (word : Word) (c : Status) : SameOutcome rel (raiseWord word c s) (raiseWord word c t) :=
  hr.update h (fun z => (z.latchError c word).respond (.status c)) fun _ _ => rfl

/-- Both read the same bytes of BUF, or neither does. -/
theorem OnRegs.withBytes (a n : Nat) {k : List Byte → State → Result}
    (hk : ∀ bs, SameOutcome rel (k bs s) (k bs t)) : SameOutcome rel (withBytes a n k s) (withBytes a n k t) := by
  have hb : t.buf = s.buf := hr.same h State.buf fun _ _ => rfl
  unfold Machine.withBytes
  rw [hb]
  cases Memory.readRange s.buf a n with
  | none => rfl
  | some bs => exact hk bs

/-- Both write the same value to rd, or fault alike. -/
theorem OnRegs.writeResult (rd : Reg) (v : Except Fault Int) :
    SameOutcome rel (writeResult rd v s) (writeResult rd v t) := by
  cases v with
  | error e => rfl
  | ok v => exact hr.done (hr.writeReg h rd (u32 v))

/-- Both write the CSR, or raise the same error, if the value is the same where the tests that come before the
read of the register pass (R84). -/
theorem OnRegs.csrWrite (i : Instr) (n : BitVec 8) {v v' : Word} (hv : csrTestsPass n s = true → v' = v) :
    SameOutcome rel (csrWrite i n v s) (csrWrite i n v' t) := by
  unfold Machine.csrWrite
  cases hc : Csr.ofNumber n with
  | none => exact hr.raiseWord h _ _
  | some c =>
    have hl : t.csrLocked c = s.csrLocked c := hr.same h (·.csrLocked c) fun _ _ => rfl
    dsimp only
    rw [hl]
    split
    · exact hr.raiseWord h _ _
    next hro =>
      split
      · exact hr.raiseWord h _ _
      next hlk =>
        rw [hv (by simp [csrTestsPass, hc, hro, hlk])]
        split
        · exact hr.raiseWord h _ _
        · exact hr.done (hr.update h (·.writeCsr c v) fun _ _ => by cases c <;> rfl)

/-- The EMSA commands reach neither X nor the marks (R2). -/
theorem OnRegs.emsa {i : Instr} (hi : isEmsa i = true) : SameOutcome rel (exec i s) (exec i t) := by
  have hm : t.gfM = s.gfM := hr.same h State.gfM fun _ _ => rfl
  have hf : t.frozen = s.frozen := hr.same h State.frozen fun _ _ => rfl
  have ht : withGfOf t s = t := by rw [hr.differ h]; rfl
  have hc := emsa_carries t s hi
  rw [ht] at hc
  refine sameOutcome_imp hc fun a a' ha haa => ?_
  obtain ⟨⟨ham, haf⟩, hax, haw⟩ := emsa_keeps_gf hi ha
  have h1 : a = withXOf s a := by rw [withXOf, ← hax, ← haw]
  have h2 : a' = withXOf t a := by rw [haa, withGfOf, hm, hf, ← ham, ← haf]; rfl
  rw [h1, h2]
  exact hr.carry h a

/-- The two ends of a field command: its value is needed only while FROZEN is set (R206 (a)). -/
theorem OnRegs.ifFrozen (i : Instr) (rd : Reg) {v v' : Except Fault Int} (hv : s.frozen = true → v' = v) :
    SameOutcome rel (if s.frozen then Machine.writeResult rd v s else raise i .illegalState s)
      (if t.frozen then Machine.writeResult rd v' t else raise i .illegalState t) := by
  have hf : t.frozen = s.frozen := hr.same h State.frozen fun _ _ => rfl
  rw [hf]
  split
  next hfz =>
    rw [hv hfz]
    exact hr.writeResult h rd v
  · exact hr.raiseWord h _ _

/-- A field command with one source. -/
theorem OnRegs.fieldUnary (i : Instr) (rd rs1 : Reg) (op : Field → Word → Except Fault Int)
    (hread : ∀ r ∈ readsIfFrozen s [rs1], t.readReg r = s.readReg r) :
    SameOutcome rel (fieldUnary i rd rs1 op s) (fieldUnary i rd rs1 op t) :=
  hr.ifFrozen h i rd fun hf => by
    have hfield : t.field = s.field := hr.same h State.field fun _ _ => rfl
    rw [hfield, hread rs1 (by simp [readsIfFrozen, hf])]

/-- A field command with two sources. -/
theorem OnRegs.fieldBinary (i : Instr) (rd rs1 rs2 : Reg) (op : Field → Word → Word → Except Fault Int)
    (hread : ∀ r ∈ readsIfFrozen s [rs1, rs2], t.readReg r = s.readReg r) :
    SameOutcome rel (fieldBinary i rd rs1 rs2 op s) (fieldBinary i rd rs1 rs2 op t) :=
  hr.ifFrozen h i rd fun hf => by
    have hfield : t.field = s.field := hr.same h State.field fun _ _ => rfl
    rw [hfield, hread rs1 (by simp [readsIfFrozen, hf]), hread rs2 (by simp [readsIfFrozen, hf])]

/-- GF.ENC (R191). -/
theorem OnRegs.gfEnc (rd rs1 rs2 : Reg) (h1 : t.readReg rs1 = s.readReg rs1) (h2 : t.readReg rs2 = s.readReg rs2) :
    SameOutcome rel (execGfEnc rd rs1 rs2 s) (execGfEnc rd rs1 rs2 t) := by
  unfold execGfEnc
  rw [h1, h2]
  dsimp only
  split
  · exact hr.done (hr.writeReg (hr.update h (fun z => z.setBuf (Memory.writeRange z.buf _ _)) fun _ _ => rfl) rd 2)
  · exact hr.raiseWord h _ _

/-- GF.DEC (R192). -/
theorem OnRegs.gfDec (rd rs1 : Reg) (h1 : t.readReg rs1 = s.readReg rs1) :
    SameOutcome rel (execGfDec rd rs1 s) (execGfDec rd rs1 t) := by
  unfold execGfDec
  rw [h1]
  dsimp only
  split
  · exact hr.withBytes h _ _ fun _ => hr.done (hr.writeReg h rd _)
  · exact hr.raiseWord h _ _

/-- LIH (R82). -/
theorem OnRegs.lih (rd : Reg) (imm16 : BitVec 16) (h1 : t.readReg rd = s.readReg rd) :
    SameOutcome rel (execLih rd imm16 s) (execLih rd imm16 t) := by
  unfold execLih
  rw [h1]
  exact hr.done (hr.writeReg h rd _)

/-- CSRR: no CSR shows X or the marks (R83). -/
theorem OnRegs.csrr (rd : Reg) (n : BitVec 8) : SameOutcome rel (execCsrr rd n s) (execCsrr rd n t) := by
  unfold execCsrr
  cases Csr.ofNumber n with
  | none => exact hr.raiseWord h _ _
  | some c =>
    have hc : t.readCsr c = s.readCsr c := hr.same h (·.readCsr c) fun _ _ => by cases c <;> rfl
    dsimp only
    rw [hc]
    exact hr.done (hr.writeReg h rd _)

/-- GF.INIT (R125). -/
theorem OnRegs.gfInit : SameOutcome rel (execGfInit s) (execGfInit t) := by
  have hf : t.frozen = s.frozen := hr.same h State.frozen fun _ _ => rfl
  have hm : t.gfM = s.gfM := hr.same h State.gfM fun _ _ => rfl
  unfold execGfInit
  rw [hf, hm]
  split
  · exact hr.raiseWord h _ _
  · split
    · exact hr.done (hr.update h State.freeze fun _ _ => rfl)
    · exact hr.raiseWord h _ _

/-- Reset forgets X and the marks (R231). -/
theorem OnRegs.resetBlock : t.resetBlock = s.resetBlock := hr.same h State.resetBlock fun _ _ => rfl

/-- Every command keeps the relation between its outcomes, if the registers that it reads hold the same. -/
theorem OnRegs.exec (i : Instr) (hread : ∀ r ∈ registersRead s i, t.readReg r = s.readReg r) :
    SameOutcome rel (exec i s) (exec i t) := by
  cases i with
  | li rd imm => exact hr.done (hr.writeReg h rd _)
  | lih rd imm => exact hr.lih h rd imm (hread rd (.head _))
  | csrr rd n => exact hr.csrr h rd n
  | csrw n rs => exact hr.csrWrite h _ n fun hp => hread rs (by simp [registersRead, hp])
  | csrwi n imm => exact hr.csrWrite h _ n fun _ => rfl
  | reset =>
    show SameOutcome rel (Machine.done s.resetBlock) (Machine.done t.resetBlock)
    rw [hr.resetBlock h]
    exact hr.done (hr.refl _)
  | gfInit => exact hr.gfInit h
  | gfEnc rd rs1 rs2 => exact hr.gfEnc h rd rs1 rs2 (hread rs1 (.head _)) (hread rs2 (.tail _ (.head _)))
  | gfDec rd rs1 => exact hr.gfDec h rd rs1 (hread rs1 (.head _))
  | emsaUpdate | emsaRawdata | emsaEncode | emsaVerify | emsaName | emsaSetid | emsaSetname => exact hr.emsa h rfl
  | gfLog | gfExp | gfRed | gfSqr | gfSqrLn | gfSqrRr | gfSqrt | gfInv | gfInvRn | gfInvRr =>
    exact hr.fieldUnary h _ _ _ _ hread
  | gfMul | gfMulNnn | gfMulLll | gfMulRrr | gfMulNrr | gfMulRrn | gfMulLnn | gfMulRnn | gfMulNrn | gfMulZrz
  | gfDiv | gfDivNnn | gfDivRnn | gfDivRnr | gfDivNrr | gfDivZzr | gfDivRrr | gfPow =>
    exact hr.fieldBinary h _ _ _ _ _ hread

/-- Every action of the host keeps the relation between its outcomes, if the registers that it reads, a command's
or the host's own, hold the same. -/
theorem OnRegs.runAction (a : HostAction)
    (hcmd : ∀ w i, a = .command w → decode w = .ok i → ∀ r ∈ registersRead s i, t.readReg r = s.readReg r)
    (hreg : ∀ r, a = .regRead r → t.readReg r = s.readReg r) :
    SameOutcome rel (runAction a s) (runAction a t) := by
  cases a with
  | command w =>
    have hcount := hr.update h State.countCommand fun _ _ => rfl
    show SameOutcome rel (runCommand w s) (runCommand w t)
    unfold runCommand
    cases hd : decode w with
    | ok i =>
      have hsame : registersRead s.countCommand i = registersRead s i := by cases i <;> rfl
      exact hr.exec hcount i (hsame ▸ hcmd w i rfl hd)
    | error e => exact hr.raiseWord hcount _ _
  | memWrite addr byte => exact hr.update h (fun z => z.setBuf (Memory.write z.buf addr.toNat byte)) fun _ _ => rfl
  | memRead addr =>
    have hb : t.buf = s.buf := hr.same h State.buf fun _ _ => rfl
    show SameOutcome rel (hostMemRead addr s) (hostMemRead addr t)
    unfold hostMemRead
    rw [hb]
    cases Memory.read s.buf addr.toNat with
    | none => rfl
    | some b => exact hr.update h (·.respond (.memData b)) fun _ _ => rfl
  | regRead r =>
    show rel (s.respond (.regData (s.readReg r))) (t.respond (.regData (t.readReg r)))
    rw [hreg r rfl]
    exact hr.update h (·.respond (.regData (s.readReg r))) fun _ _ => rfl
  | resetInput =>
    show rel s.resetBlock t.resetBlock
    rw [hr.resetBlock h]
    exact hr.refl _

end Commands

/-! ### The marks free: O58 -/

/-- Two states that differ at most in the written marks. -/
def SameButMarks (s t : State) : Prop := t = { s with xWritten := t.xWritten }

/-- Such states hold the same in X. -/
theorem SameButMarks.x {s t : State} (h : SameButMarks s t) : t.x = s.x := by
  unfold SameButMarks at h
  rw [h]

/-- A register write writes the same value and sets the same mark on both sides. -/
theorem onRegs_sameButMarks : OnRegs SameButMarks where
  refl _ := rfl
  differ h := by
    rw [withXOf, h.x]
    exact h
  carry h u := by
    rw [SameButMarks, withXOf, withXOf, h.x]
  writeReg {s t} h r v := by
    have ht : t.writeReg r v = ({ s with xWritten := t.xWritten } : State).writeReg r v := congrArg (·.writeReg r v) h
    rw [SameButMarks, ht]
    rfl

/-- Settles O58: a register holds the same on both sides, so every command keeps "equal but for the marks". -/
theorem marksNeverStopACommand : Obligations.MarksNeverStopACommand :=
  fun i s w => onRegs_sameButMarks.exec (s := s) (t := { s with xWritten := w }) rfl i fun _ _ => rfl

/-! ### The values of unwritten registers free: O57 -/

/-- Such states have the same registers written. -/
theorem marks_of_agreeOnWritten {s t : State} (h : AgreeOnWritten s t) : t.xWritten = s.xWritten := by
  rw [h.1]

/-- A register write makes both sides agree on the register written, and leaves the others. -/
theorem onRegs_agreeOnWritten : OnRegs AgreeOnWritten where
  refl _ := ⟨rfl, fun _ _ => rfl⟩
  differ h := by
    rw [withXOf, marks_of_agreeOnWritten h]
    exact h.1
  carry h u := by
    refine ⟨?_, h.2⟩
    rw [withXOf, withXOf, marks_of_agreeOnWritten h]
  writeReg {s t} h r v := by
    have ht : t.writeReg r v = ({ s with x := t.x } : State).writeReg r v := congrArg (·.writeReg r v) h.1
    refine ⟨by rw [ht]; rfl, fun q hq => ?_⟩
    by_cases hqr : q = r
    · subst hqr
      exact (t.writeReg_readReg_same q v).trans (s.writeReg_readReg_same q v).symm
    · rw [s.writeReg_marks_other v hqr] at hq
      exact (t.writeReg_readReg_other v hqr).trans ((h.2 q hq).trans (s.writeReg_readReg_other v hqr).symm)

/-- A command without the hazard reads registers that are written. -/
theorem written_of_not_readsUnwritten {s : State} {i : Instr} (h : readsUnwritten s i = false) :
    ∀ r ∈ registersRead s i, s.xWritten[r.val] = true := by
  simpa [readsUnwritten] using h

/-- Settles O57: a step without the hazard reads only registers on which both states agree. -/
theorem unwrittenValuesCannotMatter : Obligations.UnwrittenValuesCannotMatter := by
  intro s t h hz
  have hr := onRegs_agreeOnWritten
  have hi : t.inputs = s.inputs := hr.same h State.inputs fun _ _ => rfl
  unfold step
  rw [hi]
  cases hs : s.inputs with
  | nil => exact h
  | cons a rest =>
    have hza : hazardOf s a = false := by simpa [hazard, hs] using hz
    refine hr.runAction (hr.update h (·.takeInput rest) fun _ _ => rfl) a ?_ ?_
    · rintro w i rfl hd r hmem
      have hsame : registersRead (s.takeInput rest) i = registersRead s i := by cases i <;> rfl
      have hun : readsUnwritten s i = false := by simpa [hazardOf, hd] using hza
      exact h.2 r (written_of_not_readsUnwritten hun r (hsame ▸ hmem))
    · rintro r rfl
      exact h.2 r (by simpa [hazardOf] using hza)

end Sys2Proof.Machine
end

section
/-! SUPPORT. What a step on a presented word runs (10_state.md R13), what reset leaves (70_reset_and_hazards.md
R231), and what the CSRs read (10_state.md R15 to R27). -/

namespace Sys2Proof.Machine

open Sys2Proof.Safety

/-! ### The presented word -/

/-- A step on a presented word runs it at the state with the word taken from the queue (R13). -/
theorem step_command {s : State} {w : Word} {rest : List HostAction} (h : s.inputs = .command w :: rest) :
    step s = runCommand w (s.takeInput rest) := by
  unfold step
  rw [h]
  rfl

/-- A legal word runs the command it decodes to, with the index advanced (R80 (1)). -/
theorem runCommand_legal {w : Word} {i : Instr} (h : decode w = .ok i) (s : State) :
    runCommand w s = exec i s.countCommand := by
  unfold runCommand
  rw [h]

/-- Settles O5, from the two equations. -/
theorem stepRunsTheDecodedCommand : Obligations.StepRunsTheDecodedCommand := by
  intro s w rest i hs hd
  rw [step_command hs, runCommand_legal hd]
  rfl

/-! ### Reset -/

/-- `resetBlock` puts every item of R10 at its reset value (R231). -/
theorem atReset_resetBlock (s : State) : AtReset s.resetBlock := by
  refine ⟨fun r => ?_, fun _ => rfl, rfl, rfl, rfl, rfl, rfl, rfl, rfl, rfl, rfl, rfl, rfl, rfl, rfl, rfl, rfl, rfl, rfl⟩
  simp [Written, State.reset]

/-- Settles O9: the reset input answers `resetBlock`, and RESET the same with its OK. -/
theorem resetInputPutsEveryItemAtReset : Obligations.ResetInputPutsEveryItemAtReset := by
  intro s rest hs
  refine ⟨(s.takeInput rest).resetBlock, ?_, atReset_resetBlock _, rfl, rfl, rfl, rfl, rfl⟩
  unfold step
  rw [hs]
  rfl

/-- Settles O17: RESET answers `resetBlock` with its OK. -/
theorem resetCommandPutsEveryItemAtReset : Obligations.ResetCommandPutsEveryItemAtReset :=
  fun s => ⟨s.resetBlock.respond (.status .ok), rfl, atReset_resetBlock s, rfl, rfl, rfl, rfl⟩

/-! ### The CSR map and the read values -/

/-- A number names the CSR whose number it is, and no other (R15). -/
theorem csr_ofNumber_eq_some (n : BitVec 8) (c : Csr) : Csr.ofNumber n = some c ↔ n = c.number := by
  constructor
  · intro h
    unfold Csr.ofNumber at h
    split at h <;> cases h <;> exact BitVec.eq_of_toNat_eq ‹_›
  · rintro rfl
    cases c <;> rfl

/-- A truth value reads 0 or 1 (R26). -/
@[simp] theorem bitWord_toNat (b : Bool) : (bitWord b).toNat = if b then 1 else 0 := by cases b <;> rfl

/-- EMSA_MODE reads 1 in RAW mode, else 0 (R22). -/
theorem EmsaMode.word_toNat (m : EmsaMode) : m.word.toNat = if m = .raw then 1 else 0 := by cases m <;> rfl

/-- STATUS reads GF_READY + 2·EMSA_BUSY (R16). -/
theorem State.statusWord_toNat (s : State) :
    s.statusWord.toNat = (if s.frozen then 1 else 0) + (if s.pending = [] then 0 else 2) := by
  unfold State.statusWord State.gfReady State.emsaBusy
  cases s.frozen <;> cases s.pending <;> simp [bitWord]

/-- A number below 2^32 is read as it is. -/
theorem word_toNat_of_lt {n : Nat} (h : n < 2 ^ 32) : (BitVec.ofNat 32 n).toNat = n :=
  (BitVec.toNat_ofNat n 32).trans (Nat.mod_eq_of_lt h)

/-- While FROZEN is set, GF_Q and GF_ORD read 2^M and 2^M - 1 (R21). -/
theorem State.gfQ_gfOrd_of_frozen {s : State} (hf : s.frozen = true) (hm : s.gfM.toNat ≤ 16) :
    s.gfQWord.toNat = 2 ^ s.gfM.toNat ∧ s.gfOrdWord.toNat = 2 ^ s.gfM.toNat - 1 := by
  have hq : 2 ^ s.gfM.toNat ≤ 2 ^ 16 := Nat.pow_le_pow_right (by omega) hm
  rw [State.gfQWord, State.gfOrdWord, if_pos hf, if_pos hf]
  exact ⟨word_toNat_of_lt (hq.trans_lt (by norm_num)),
    word_toNat_of_lt (((Nat.sub_le _ _).trans hq).trans_lt (by norm_num))⟩

/-- While FROZEN is 0, GF_Q and GF_ORD read 0 (R21). -/
theorem State.gfQ_gfOrd_of_not_frozen {s : State} (hf : s.frozen = false) : s.gfQWord = 0 ∧ s.gfOrdWord = 0 := by
  simp [State.gfQWord, State.gfOrdWord, hf]

/-- Settles O14: the map from the numbers, then each read value from its own lemma. -/
theorem csrMapAndReadValues : Obligations.CsrMapAndReadValues := by
  refine ⟨csr_ofNumber_eq_some, fun c => by cases c <;> rfl, fun s => ?_⟩
  obtain ⟨hlo, hhi⟩ := s.hashOutLen_bounds
  refine ⟨s.statusWord_toNat, State.gfQ_gfOrd_of_frozen, State.gfQ_gfOrd_of_not_frozen, rfl, rfl, rfl, rfl, rfl, rfl,
    rfl, rfl, rfl, rfl, rfl, s.emsaMode.word_toNat, bitWord_toNat _, BitVec.toNat_ofNat _ _, ?pend, ?id, ?name, ?hash,
    hlo, hhi⟩
  case pend => exact fun h => word_toNat_of_lt (by omega)
  case id | name => exact fun h => word_toNat_of_lt (h.trans_lt (by norm_num))
  case hash => exact word_toNat_of_lt (hhi.trans_lt (by norm_num))

/-! ### The canonical form of BUF -/

/-- A byte below the head of a canonical memory is unwritten. -/
theorem Memory.read_below_head {m : Memory} {a : Nat} (hw : Memory.wf m = true) (h : ∀ e ∈ m.head?, a < e.1) :
    Memory.read m a = none := by
  induction m with
  | nil => rfl
  | cons e m ih =>
    obtain ⟨k, b⟩ := e
    have hak : a < k := h _ rfl
    obtain ⟨-, hm, habove⟩ := Memory.wf_cons.mp hw
    rw [Memory.read, if_neg hak.ne]
    exact ih hm fun e he => hak.trans (habove e he)

/-- Canonical memories that read alike start at the same address, or the lower one would have a byte that the
other lacks. -/
theorem Memory.head_le_of_read_eq {k k' : Nat} {b b' : Byte} {m m' : Memory}
    (hw' : Memory.wf ((k', b') :: m') = true)
    (h : Memory.read ((k, b) :: m) k = Memory.read ((k', b') :: m') k) : k' ≤ k := by
  by_contra hlt
  rw [Memory.read_below_head hw' (by simpa using hlt)] at h
  simp [Memory.read] at h

/-- Settles O59, by induction on the first list: the heads agree, and so do the tails, which have no byte at the
head's address. -/
theorem canonicalBufIsDeterminedByItsReads : Obligations.CanonicalBufIsDeterminedByItsReads := by
  intro m
  induction m with
  | nil =>
    rintro (- | ⟨⟨k, b⟩, m'⟩) - - h
    · rfl
    · simpa [Memory.read] using h k
  | cons e m ih =>
    obtain ⟨k, b⟩ := e
    rintro (- | ⟨⟨k', b'⟩, m'⟩) hw hw' h
    · simpa [Memory.read] using h k
    · obtain rfl : k = k' := le_antisymm (Memory.head_le_of_read_eq hw (h k').symm) (Memory.head_le_of_read_eq hw' (h k))
      obtain ⟨-, hm, habove⟩ := Memory.wf_cons.mp hw
      obtain ⟨-, hm', habove'⟩ := Memory.wf_cons.mp hw'
      have hb : b = b' := by simpa [Memory.read] using h k
      have htail : ∀ a, Memory.read m a = Memory.read m' a := by
        intro a
        by_cases hak : a = k
        · rw [hak, Memory.read_below_head hm habove, Memory.read_below_head hm' habove']
        · simpa [Memory.read, hak] using h a
      rw [hb, ih m' hm hm' htail]

end Sys2Proof.Machine
end

section
/-! SUPPORT. What every command keeps, read off the list of effects: the ports (10_state.md R13), the error
registers (R17, R18), the field (R20), the stores, the EMSA registers and BUF (R19 to R31). -/

namespace Sys2Proof.Machine

open Sys2Proof.Safety

/-! ### The ports -/

/-- A command has at most one status (R201). -/
theorem responds_unique {c c' : Status} {s t : State} (h : Responds c s t) (h' : Responds c' s t) : c = c' := by
  simpa using h.symm.trans h'

/-- No effect touches the host's queue, the index, the parameters or the answers. -/
theorem Effect.ports {i : Instr} {s u : State} (e : Effect s i u) :
    SamePorts s u ∧ u.responses = s.responses := by
  cases e with
  | csr c v =>
    obtain ⟨-, -, -, -, -, -, -, -, -, hinputs, hresponses, hindex, hparams⟩ := s.writeCsr_frame c v
    exact ⟨⟨hinputs, hindex, hparams⟩, hresponses⟩
  | _ => exact ⟨⟨rfl, rfl, rfl⟩, rfl⟩

/-- The answer comes after every earlier answer. -/
theorem responds_respond {c : Status} {s u : State} (h : u.responses = s.responses) :
    Responds c s (u.respond (.status c)) :=
  congrArg (fun l => l ++ [Response.status c]) h

/-- A command touches neither the host's queue nor the index nor the parameters (R13, R31). -/
theorem exec_samePorts {i : Instr} {s t : State} (ht : exec i s = .next t) : SamePorts s t := by
  rcases exec_ends ht with ⟨c, bs, -, -, rfl⟩ | ⟨u, e, rfl⟩
  · exact ⟨rfl, rfl, rfl⟩
  · exact e.ports.1

/-- A command answers one status: OK or one that R215 lists for it (R201). -/
theorem exec_status {i : Instr} {s t : State} (ht : exec i s = .next t) :
    ∃ c, (c = .ok ∨ c ∈ statusesOf i s) ∧ Responds c s t := by
  rcases exec_next ht with ⟨c, hc, -, rfl⟩ | ⟨-, u, e, rfl⟩
  · refine ⟨c, .inr hc, responds_respond ?_⟩
    rcases pendingAfterError_cases i c s with h | ⟨-, h⟩
    · rw [State.latchError_responses, h]
    · rw [State.latchError_responses, h, State.setPending_responses]
  · exact ⟨.ok, .inl rfl, responds_respond e.ports.2⟩

/-- Settles O7: a legal word's command appends its one status, an illegal word IllegalCommand. -/
theorem everyCommandAnswersOneStatusAndAdvancesTheIndex :
    Obligations.EveryCommandAnswersOneStatusAndAdvancesTheIndex := by
  intro s w rest t hs ht
  rw [step_command hs] at ht
  rcases runCommand_next ht with ⟨i, -, hx⟩ | rfl
  · obtain ⟨hinputs, hindex, -⟩ := exec_samePorts hx
    obtain ⟨c, -, hc⟩ := exec_status hx
    exact ⟨hinputs, hindex, c, hc, c.code_le⟩
  · exact ⟨rfl, rfl, .illegalCommand, rfl, Status.code_le _⟩

/-! ### The error registers -/

/-- A command writes at most one CSR. -/
theorem writesCsr_unique {i : Instr} {c c' : Csr} (h : writesCsr i c) (h' : writesCsr i c') : c = c' := by
  cases i with
  | csrw n rs | csrwi n imm => exact Option.some.inj (Eq.trans (Eq.symm h) h')
  | _ => exact h.elim

/-- RESET writes no CSR by number. -/
theorem ne_reset_of_writesCsr {i : Instr} {c : Csr} (h : writesCsr i c) : i ≠ .reset := by
  rintro rfl
  exact h

/-- A write of another CSR than CAUSE leaves CAUSE and FAULTCMD (R17, R18). -/
theorem State.writeCsr_sameError (s : State) {c : Csr} (v : Word) (hc : c ≠ .cause) :
    SameError s (s.writeCsr c v) := by
  cases c with
  | cause => exact absurd rfl hc
  | _ => exact ⟨rfl, rfl⟩

/-- The effects that reach the error registers are RESET and a write of CAUSE, and they clear both (R17). -/
theorem Effect.error {i : Instr} {s u : State} (e : Effect s i u) :
    (SameError s u ∧ ¬(i = .reset ∨ writesCsr i .cause)) ∨
      ((i = .reset ∨ writesCsr i .cause) ∧ u.cause = 0 ∧ u.faultCmd = 0) := by
  cases e with
  | reg rd v field plain other notReset => exact .inl ⟨⟨rfl, rfl⟩, not_or.mpr ⟨notReset, plain _⟩⟩
  | csr c v names =>
    by_cases hc : c = .cause
    · subst hc
      exact .inr ⟨.inr names, rfl, rfl⟩
    · exact .inl ⟨s.writeCsr_sameError v hc,
        not_or.mpr ⟨ne_reset_of_writesCsr names, fun h => hc (writesCsr_unique names h)⟩⟩
  | reset => exact .inr ⟨.inl rfl, rfl, rfl⟩
  | _ => exact .inl ⟨⟨rfl, rfl⟩, not_or.mpr ⟨nofun, id⟩⟩

/-- Settles O52: the answer OK leaves the effects only. -/
theorem okLeavesTheErrorRegisters : Obligations.OkLeavesTheErrorRegisters := by
  intro i s t ht hok
  rcases exec_ends ht with ⟨c, bs, hc, -, rfl⟩ | ⟨u, e, rfl⟩
  · exact absurd (responds_unique (responds_respond rfl) hok) hc
  · rcases e.error with ⟨hsame, hnot⟩ | ⟨hclears, hzero⟩
    · exact ⟨fun _ _ => hsame, fun h => absurd h hnot⟩
    · exact ⟨fun h1 h2 => absurd hclears (not_or.mpr ⟨h1, h2⟩), fun _ => hzero⟩

/-! ### The field that GF.INIT constructs -/

/-- While FROZEN is set, every effect but RESET keeps it and GF_M, which is locked (R19, R20). -/
theorem Effect.keepsField {i : Instr} {s u : State} (e : Effect s i u) (hf : s.frozen = true) (hi : i ≠ .reset) :
    SameGf s u := by
  cases e with
  | csr c v names writable unlocked =>
    cases c with
    | gfM => exact absurd (hf.symm.trans unlocked) Bool.true_eq_false.mp
    | _ => exact ⟨rfl, rfl⟩
  | reset => exact absurd rfl hi
  | init fresh => exact absurd (hf.symm.trans fresh) Bool.true_eq_false.mp
  | _ => exact ⟨rfl, rfl⟩

/-- The only effect that sets FROZEN is GF.INIT's (R20). -/
theorem Effect.eq_gfInit_of_freezes {i : Instr} {s u : State} (e : Effect s i u) (hf : s.frozen = false)
    (hu : u.frozen = true) : i = .gfInit := by
  cases e with
  | init => rfl
  | csr c v =>
    obtain ⟨-, -, -, hfrozen, -⟩ := s.writeCsr_frame c v
    exact absurd (hf.symm.trans (hfrozen.symm.trans hu)) Bool.false_ne_true
  | reset => exact absurd hu Bool.false_ne_true
  | _ => exact absurd (hf.symm.trans hu) Bool.false_ne_true

/-- While FROZEN is set, every command but RESET keeps it and GF_M. -/
theorem exec_keepsField {i : Instr} {s t : State} (ht : exec i s = .next t) (hf : s.frozen = true)
    (hi : i ≠ .reset) : SameGf s t := by
  rcases exec_ends ht with ⟨c, bs, -, -, rfl⟩ | ⟨u, e, rfl⟩
  · exact ⟨rfl, rfl⟩
  · exact e.keepsField hf hi

/-- The only command that sets FROZEN is GF.INIT. -/
theorem eq_gfInit_of_exec_freezes {i : Instr} {s t : State} (ht : exec i s = .next t) (hf : s.frozen = false)
    (hu : t.frozen = true) : i = .gfInit := by
  rcases exec_ends ht with ⟨c, bs, -, -, rfl⟩ | ⟨u, e, rfl⟩
  · exact absurd (hf.symm.trans hu) Bool.false_ne_true
  · exact e.eq_gfInit_of_freezes hf hu

/-- While FROZEN is 0, a field command raises IllegalState (R206 (a)). -/
theorem exec_of_not_frozen {i : Instr} {s : State} (hn : needsField i = true) (hf : s.frozen = false) :
    exec i s = raise i .illegalState s := by
  have hne : ¬s.frozen = true := ne_true_of_eq_false hf
  cases i with
  | gfLog | gfExp | gfRed | gfSqr | gfSqrLn | gfSqrRr | gfSqrt | gfInv | gfInvRn | gfInvRr
  | gfMul | gfMulNnn | gfMulLll | gfMulRrr | gfMulNrr | gfMulRrn | gfMulLnn | gfMulRnn | gfMulNrn | gfMulZrz
  | gfDiv | gfDivNnn | gfDivRnn | gfDivRnr | gfDivNrr | gfDivZzr | gfDivRrr | gfPow => exact if_neg hne
  | _ => exact absurd hn Bool.false_ne_true

/-- The error entry of `raise` is the one R203 describes. -/
theorem raises_of_exec_eq {i : Instr} {c : Status} {s : State} (h : exec i s = raise i c s) : Raises i c s :=
  ⟨_, h, rfl, rfl, rfl, ⟨rfl, rfl⟩, fun _ => rfl, ⟨rfl, rfl⟩, ⟨rfl, rfl, rfl, rfl, rfl, rfl, rfl, rfl⟩, ⟨rfl, rfl⟩, rfl,
    ⟨rfl, rfl⟩, rfl, rfl, rfl⟩

/-- A command whose only error is BufRange, as the codec's is (R190), never answers IllegalState. -/
theorem exec_not_illegalState {i : Instr} {s t : State} (hs : statusesOf i s = [.bufRange])
    (ht : exec i s = .next t) : ¬Responds .illegalState s t := by
  intro h
  obtain ⟨c, hc, hresp⟩ := exec_status ht
  obtain rfl := responds_unique hresp h
  simp [hs] at hc

/-! ### The words of RESET and GF.INIT -/

/-- What a decoder that checks its zero bits gives. -/
theorem checkZero_eq_ok {ok : Bool} {i j : Instr} : checkZero ok i = .ok j ↔ ok = true ∧ i = j := by
  unfold checkZero
  split <;> simp_all

/-- A word of format N is its opcode (R61). -/
theorem eq_of_formatN {w : Word} {op : Nat} (ho : (opcodeField w).toNat = op) (hz : zeroField w 8 24 = true) :
    w = BitVec.ofNat 32 op := by
  have hhi : w.toNat / 2 ^ 8 % 2 ^ 24 = 0 := by
    simpa [zeroField, ← BitVec.toNat_inj, Nat.shiftRight_eq_div_pow] using hz
  have hlo : w.toNat % 2 ^ 8 = op := by simpa [opcodeField] using ho
  apply BitVec.eq_of_toNat_eq
  rw [BitVec.toNat_ofNat]
  have := w.isLt
  omega

/-- RESET and GF.INIT have one word each (R64). -/
theorem eq_encode_of_decode {w : Word} {i : Instr} (hi : i = .reset ∨ i = .gfInit) (h : decode w = .ok i) :
    w = encode i := by
  rcases hi with rfl | rfl
  all_goals
    unfold decode at h
    split at h <;> simp only [decodeI, decodeC, decodeK, decodeR, decodeR1, decodeN, checkZero_eq_ok, reduceCtorEq,
      and_false, and_true, Except.ok.injEq] at h
    exact eq_of_formatN ‹_› h

/-! ### A step and the field -/

/-- What a step can do to FROZEN, GF_M and the parameters: nothing, or it takes the reset input, or it runs
a command. -/
theorem step_ends {s t : State} (ht : step s = .next t) :
    (SameGf s t ∧ t.params = s.params) ∨
    (∃ rest, s.inputs = .resetInput :: rest ∧ t = (s.takeInput rest).resetBlock) ∨
    (∃ w rest i, s.inputs = .command w :: rest ∧ decode w = .ok i ∧
      exec i (s.takeInput rest).countCommand = .next t) := by
  rcases step_next ht with ⟨-, rfl⟩ | ⟨a, rest, hs, ha⟩
  · exact .inl ⟨⟨rfl, rfl⟩, rfl⟩
  · cases a with
    | command w =>
      rcases runCommand_next ha with ⟨i, hd, hx⟩ | rfl
      · exact .inr (.inr ⟨w, rest, i, hs, hd, hx⟩)
      · exact .inl ⟨⟨rfl, rfl⟩, rfl⟩
    | memWrite addr byte =>
      cases ha
      exact .inl ⟨⟨rfl, rfl⟩, rfl⟩
    | memRead addr =>
      obtain ⟨b, rfl⟩ := hostMemRead_next ha
      exact .inl ⟨⟨rfl, rfl⟩, rfl⟩
    | regRead r =>
      cases ha
      exact .inl ⟨⟨rfl, rfl⟩, rfl⟩
    | resetInput =>
      cases ha
      exact .inr (.inl ⟨rest, hs, rfl⟩)

/-- No step changes the parameters of the run (R31). -/
theorem step_params {s t : State} (ht : step s = .next t) : t.params = s.params := by
  rcases step_ends ht with ⟨-, h⟩ | ⟨rest, -, rfl⟩ | ⟨w, rest, i, -, -, hx⟩
  · exact h
  · rfl
  · obtain ⟨-, -, hparams⟩ := exec_samePorts hx
    exact hparams

/-- FROZEN and GF_M outlive every step but RESET and the reset input (R20). -/
theorem step_keepsField {s t : State} (ht : step s = .next t) (hf : s.frozen = true)
    (hno : ∀ rest, s.inputs ≠ .resetInput :: rest ∧ s.inputs ≠ .command (encode .reset) :: rest) : SameGf s t := by
  rcases step_ends ht with ⟨h, -⟩ | ⟨rest, hs, -⟩ | ⟨w, rest, i, hs, hd, hx⟩
  · exact h
  · exact absurd hs (hno rest).1
  · refine exec_keepsField (s := (s.takeInput rest).countCommand) hx hf ?_
    rintro rfl
    rw [eq_encode_of_decode (.inl rfl) hd] at hs
    exact (hno rest).2 hs

/-- A step that sets FROZEN ran GF.INIT (R20). -/
theorem step_freezes {s t : State} (ht : step s = .next t) (hf : s.frozen = false) (hu : t.frozen = true) :
    ∃ rest, s.inputs = .command (encode .gfInit) :: rest := by
  rcases step_ends ht with ⟨⟨-, h⟩, -⟩ | ⟨rest, -, rfl⟩ | ⟨w, rest, i, hs, hd, hx⟩
  · exact absurd (hf.symm.trans (h.symm.trans hu)) Bool.false_ne_true
  · exact absurd hu Bool.false_ne_true
  · obtain rfl := eq_gfInit_of_exec_freezes (s := (s.takeInput rest).countCommand) hx hf hu
    rw [eq_encode_of_decode (.inr rfl) hd] at hs
    exact ⟨rest, hs⟩

/-- Settles O53, clause by clause. -/
theorem onlyResetDestroysTheFieldInstance : Obligations.OnlyResetDestroysTheFieldInstance := by
  refine ⟨fun s t ht hf hno => ?_, fun s t => step_freezes,
    fun i s hn hf => raises_of_exec_eq (exec_of_not_frozen hn hf), ?_, rfl, fun s => ?_⟩
  · obtain ⟨hm, hfrozen⟩ := step_keepsField ht hf hno
    exact ⟨hfrozen.trans hf, hm, State.field_congr hm (step_params ht)⟩
  · rintro rd rs1 rs2 s t (ht | ht)
    · exact exec_not_illegalState rfl ht
    · exact exec_not_illegalState rfl ht
  · show s.statusWord.toNat % 2 = _
    rw [s.statusWord_toNat]
    split <;> split <;> rfl

/-! ### The writers of each store and CSR -/

/-- The commands that may change PENDING, HASH_ID, HASH_NAME, EMSA_OUTLEN, EMSA_RESULT and BUF (R25, R26, R29, R30,
20_memory.md R49). -/
structure StoresHaveWriters (i : Instr) (s t : State) : Prop where
  pending : t.pending = s.pending ∨ i ∈ [.emsaUpdate, .emsaRawdata, .emsaEncode, .emsaVerify, .reset]
  hashId : t.hashId = s.hashId ∨ i ∈ [.emsaSetid, .reset]
  hashName : t.hashName = s.hashName ∨ i ∈ [.emsaSetname, .reset]
  outLen : t.emsaOutLen = s.emsaOutLen ∨ i ∈ [.emsaRawdata, .emsaEncode, .emsaName, .reset]
  result : t.emsaResult = s.emsaResult ∨ i ∈ [.emsaVerify, .reset]
  buf : SameBuf s t ∨ i ∈ [.emsaRawdata, .emsaEncode, .emsaName, .reset] ∨ ∃ rd rs1 rs2, i = .gfEnc rd rs1 rs2

/-- Each effect reaches only the stores it names. -/
theorem Effect.stores {i : Instr} {s u : State} (e : Effect s i u) : StoresHaveWriters i s u := by
  have same : SameBuf s s := fun _ => rfl
  cases e with
  | reg | init => exact ⟨.inl rfl, .inl rfl, .inl rfl, .inl rfl, .inl rfl, .inl same⟩
  | csr c v =>
    obtain ⟨-, -, hbuf, -, hout, hres, hpend, hid, hname, -⟩ := s.writeCsr_frame c v
    exact ⟨.inl hpend, .inl hid, .inl hname, .inl hout, .inl hres, .inl fun _ => by rw [hbuf]⟩
  | reset =>
    exact ⟨.inr (by decide), .inr (by decide), .inr (by decide), .inr (by decide), .inr (by decide),
      .inr (.inl (by decide))⟩
  | enc rd rs1 rs2 => exact ⟨.inl rfl, .inl rfl, .inl rfl, .inl rfl, .inl rfl, .inr (.inr ⟨rd, rs1, rs2, rfl⟩)⟩
  | update => exact ⟨.inr (by decide), .inl rfl, .inl rfl, .inl rfl, .inl rfl, .inl same⟩
  | setid => exact ⟨.inl rfl, .inr (by decide), .inl rfl, .inl rfl, .inl rfl, .inl same⟩
  | setname => exact ⟨.inl rfl, .inl rfl, .inr (by decide), .inl rfl, .inl rfl, .inl same⟩
  | rawdata | encode =>
    exact ⟨.inr (by decide), .inl rfl, .inl rfl, .inr (by decide), .inl rfl, .inr (.inl (by decide))⟩
  | verify => exact ⟨.inr (by decide), .inl rfl, .inl rfl, .inl rfl, .inr (by decide), .inl same⟩
  | name => exact ⟨.inl rfl, .inl rfl, .inl rfl, .inr (by decide), .inl rfl, .inr (.inl (by decide))⟩

/-- Each command reaches only the stores it names; an error reaches PENDING alone (R93, R203). -/
theorem exec_stores {i : Instr} {s t : State} (ht : exec i s = .next t) : StoresHaveWriters i s t := by
  rcases exec_ends ht with ⟨c, bs, -, hbs, rfl⟩ | ⟨u, e, rfl⟩
  · refine ⟨hbs.imp_right ?_, .inl rfl, .inl rfl, .inl rfl, .inl rfl, .inl fun _ => rfl⟩
    rintro ⟨rfl | rfl, -⟩
    · decide
    · decide
  · obtain ⟨hpend, hid, hname, hout, hres, hbuf⟩ := e.stores
    exact ⟨hpend, hid, hname, hout, hres, hbuf⟩

/-- The CSRs that a write may reach, CAUSE apart, read GF_M and the EMSA configuration. -/
theorem readCsr_of_sameConfig {s t : State} (h : SameEmsaConfig s t) (hm : t.gfM = s.gfM) {c : Csr}
    (hc : plainWritable c = true) : t.readCsr c = s.readCsr c := by
  obtain ⟨hmode, hexpect, hsrc, hlen, hdst, hbits, haux, hauxLen⟩ := h
  cases c with
  | gfM => exact hm
  | emsaMode => exact congrArg EmsaMode.word hmode
  | emsaExpect => exact hexpect
  | emsaSrc => exact hsrc
  | emsaLen => exact hlen
  | emsaDst => exact hdst
  | emsaBits => exact hbits
  | emsaAux => exact haux
  | emsaAuxLen => exact hauxLen
  | _ => exact absurd hc (by decide)

/-- A write of one CSR leaves what the other CSRs that a write may reach read. -/
theorem State.writeCsr_readCsr_other (s : State) {c c' : Csr} (v : Word) (hne : c' ≠ c)
    (hc' : plainWritable c' = true) : (s.writeCsr c v).readCsr c' = s.readCsr c' := by
  cases c' with
  | gfM | emsaMode | emsaExpect | emsaSrc | emsaLen | emsaDst | emsaBits | emsaAux | emsaAuxLen =>
    cases c <;> first | rfl | exact absurd rfl hne
  | _ => exact absurd hc' (by decide)

/-- An answer changes what no CSR reads. -/
theorem State.respond_readCsr (s : State) (r : Response) (c : Csr) : (s.respond r).readCsr c = s.readCsr c := by
  cases c <;> rfl

/-- An effect that changes what a writable CSR but CAUSE reads is RESET or a write of that CSR. -/
theorem Effect.plainCsrs {i : Instr} {s u : State} (e : Effect s i u) {c : Csr} (hc : plainWritable c = true) :
    u.readCsr c = s.readCsr c ∨ i = .reset ∨ writesCsr i c := by
  cases e with
  | csr c' v names =>
    by_cases hcc : c = c'
    · subst hcc
      exact .inr (.inr names)
    · exact .inl (s.writeCsr_readCsr_other v hcc hc)
  | reset => exact .inr (.inl rfl)
  | _ =>
    refine .inl (readCsr_of_sameConfig ?_ ?_ hc)
    · exact ⟨rfl, rfl, rfl, rfl, rfl, rfl, rfl, rfl⟩
    · rfl

/-- A command that changes what a writable CSR but CAUSE reads is RESET or a write of that CSR. -/
theorem exec_plainCsrs {i : Instr} {s t : State} (ht : exec i s = .next t) {c : Csr}
    (hc : plainWritable c = true) : t.readCsr c = s.readCsr c ∨ i = .reset ∨ writesCsr i c := by
  rcases exec_ends ht with ⟨c', bs, -, -, rfl⟩ | ⟨u, e, rfl⟩
  · refine .inl (readCsr_of_sameConfig ?_ ?_ hc)
    · exact ⟨rfl, rfl, rfl, rfl, rfl, rfl, rfl, rfl⟩
    · rfl
  · rw [u.respond_readCsr]
    exact e.plainCsrs hc

/-- EMSA_MODE reads differently in the two modes (R22). -/
theorem EmsaMode.word_injective {m m' : EmsaMode} (h : m.word = m'.word) : m = m' := by
  cases m <;> cases m' <;> simp_all [EmsaMode.word]

/-- Settles O56: the writers of the stores, then those of each CSR, then the parameters. -/
theorem eachStoreHasItsWriters : Obligations.EachStoreHasItsWriters := by
  refine ⟨fun i s t ht => ?_, fun s t => step_params⟩
  have hs := exec_stores ht
  have hcsr : ∀ c : Csr, plainWritable c = true → t.readCsr c ≠ s.readCsr c → i = .reset ∨ writesCsr i c :=
    fun c hc => (exec_plainCsrs ht hc).resolve_left
  exact ⟨hs.pending.resolve_left, hs.hashId.resolve_left, hs.hashName.resolve_left, hs.outLen.resolve_left,
    hs.result.resolve_left, hcsr .emsaSrc rfl, hcsr .emsaLen rfl, hcsr .emsaDst rfl, hcsr .emsaBits rfl,
    hcsr .emsaAux rfl, hcsr .emsaAuxLen rfl, fun h => hcsr .emsaMode rfl (h ∘ EmsaMode.word_injective),
    hcsr .emsaExpect rfl, hcsr .gfM rfl, hs.buf.resolve_left⟩

end Sys2Proof.Machine
end

section
/-! SUPPORT. What each action of the host port does to the block, and that it idles without one (20_memory.md
R43, R44, R47; 60_exceptions.md R220). -/

namespace Sys2Proof.Machine

open Sys2Proof.Safety

/-- A step with an action waiting takes it from the queue and runs it (R13, R47). -/
theorem step_of_inputs {s : State} {a : HostAction} {rest : List HostAction} (h : s.inputs = a :: rest) :
    step s = runAction a (s.takeInput rest) := by
  unfold step
  rw [h]

/-- With no action waiting a step leaves the block as it is (R220). -/
theorem step_of_no_inputs {s : State} (h : s.inputs = []) : step s = .next s := by
  unfold step
  rw [h]

/-- A range write stores its bytes and leaves every other byte of BUF (R43). -/
theorem State.setBuf_writeRange_stores (s : State) (a : Nat) (bs : List Byte) :
    Stores a bs s (s.setBuf (Memory.writeRange s.buf a bs)) :=
  ⟨fun _ => Memory.read_writeRange_inside bs s.buf a, fun _ => Memory.read_writeRange_outside bs s.buf⟩

/-- The host reads a written byte (R47). -/
theorem hostMemRead_of_written {a : BitVec 16} {b : Byte} {s : State} (h : Memory.read s.buf a.toNat = some b) :
    hostMemRead a s = .next (s.respond (.memData b)) := by
  unfold hostMemRead
  rw [h]

/-- The host's read of an unwritten byte is undefined (R44). -/
theorem hostMemRead_of_unwritten {a : BitVec 16} {s : State} (h : Memory.read s.buf a.toNat = none) :
    hostMemRead a s = .fault .unwrittenMemory := by
  unfold hostMemRead
  rw [h]

/-- Settles O8: HostMemWrite is a range write of one byte, and the other clauses are one equation each. -/
theorem hostPortActionsAndIdle : Obligations.HostPortActionsAndIdle := by
  intro s rest
  refine ⟨fun a b h => ?write, fun a b h hb => ?read, fun a h hb => ?unwritten, fun r h _ => ?reg,
    step_of_no_inputs⟩
  case write =>
    exact ⟨_, step_of_inputs h, (s.takeInput rest).setBuf_writeRange_stores a.toNat [b], rfl, ⟨rfl, rfl⟩, ⟨rfl, rfl⟩,
      ⟨rfl, rfl⟩, ⟨⟨rfl, rfl, rfl, rfl, rfl, rfl, rfl, rfl⟩, ⟨rfl, rfl⟩, rfl, rfl, rfl⟩, rfl, rfl, rfl⟩
  case read => exact (step_of_inputs h).trans (hostMemRead_of_written hb)
  case unwritten => exact (step_of_inputs h).trans (hostMemRead_of_unwritten hb)
  case reg => exact step_of_inputs h

end Sys2Proof.Machine
end

section
/-! SUPPORT. The decoder against the encoder and the mask table (30_encoding.md R61, R63, R64, R66): a word is put
together again from its fields, and each command has one of the six formats, in which its row, its word and its arm of
the decoder agree. The statements on words follow format by format. -/

namespace Sys2Proof

open Sys2Proof.Machine (checkZero_eq_ok)
open Sys2Proof.Laws (rowOf)

/-! ### A word from its fields (R61) -/

/-- The low k bits and the field above them are the low k + n bits. -/
theorem low_or_field (w : Word) (k n : Nat) :
    (w.extractLsb' 0 k).setWidth 32 ||| (w.extractLsb' k n).setWidth 32 <<< k =
      (w.extractLsb' 0 (k + n)).setWidth 32 := by
  ext i hi
  rcases lt_or_ge i k with hlt | hge
  · simp [hi, hlt, show i < k + n by omega]
  · simp [hi, show ¬i < k by omega, show i - k < n ↔ i < k + n by omega, show k + (i - k) = i by omega]

/-- A zero field above the low bits adds nothing to them. -/
theorem low_of_zeroField {w : Word} {k n : Nat} (h : zeroField w k n = true) :
    (w.extractLsb' 0 k).setWidth 32 = (w.extractLsb' 0 (k + n)).setWidth 32 := by
  rw [← low_or_field, beq_iff_eq.mp h]
  simp

/-- All 32 bits are the word. -/
theorem low_all (w : Word) : (w.extractLsb' 0 32).setWidth 32 = w := by
  ext i hi
  simp

/-- A register field put back in its place. -/
theorem regBits_regField (w : Word) (lo : Nat) :
    regBits (regField w lo) lo = (w.extractLsb' lo 4).setWidth 32 <<< lo := regBits_eq _ _

section Words

variable {w : Word}

/-- A word of format R from its fields. -/
theorem wordR_of_fields (h : zeroField w 20 12 = true) :
    wordR ((opcodeField w).setWidth 32) (regField w 8) (regField w 12) (regField w 16) = w := by
  rw [wordR, regBits_regField, regBits_regField, regBits_regField, opcodeField, low_or_field, low_or_field,
    low_or_field, low_of_zeroField h, low_all]

/-- A word of format R1 from its fields. -/
theorem wordR1_of_fields (h : zeroField w 16 16 = true) :
    wordR1 ((opcodeField w).setWidth 32) (regField w 8) (regField w 12) = w := by
  rw [wordR1, regBits_regField, regBits_regField, opcodeField, low_or_field, low_or_field, low_of_zeroField h, low_all]

/-- A word of format I from its fields. -/
theorem wordI_of_fields (h : zeroField w 12 4 = true) :
    wordI ((opcodeField w).setWidth 32) (regField w 8) (immField w) = w := by
  rw [wordI, regBits_regField, opcodeField, immField, low_or_field, low_of_zeroField h, low_or_field, low_all]

/-- A word of format C from its fields. -/
theorem wordC_of_fields (h : zeroField w 12 4 = true) (h' : zeroField w 24 8 = true) :
    wordC ((opcodeField w).setWidth 32) (regField w 8) (w.extractLsb' 16 8) = w := by
  rw [wordC, regBits_regField, opcodeField, low_or_field, low_of_zeroField h, low_or_field, low_of_zeroField h',
    low_all]

/-- A word of format K from its fields. -/
theorem wordK_of_fields : wordK ((opcodeField w).setWidth 32) (w.extractLsb' 8 8) (immField w) = w := by
  rw [wordK, opcodeField, immField, low_or_field, low_or_field, low_all]

/-- A word of format N from its opcode. -/
theorem wordN_of_fields (h : zeroField w 8 24 = true) : (opcodeField w).setWidth 32 = w := by
  rw [opcodeField, low_of_zeroField h, low_all]

end Words

/-! ### The fields of a word under a mask (R64) -/

/-- A field inside the mask is the field of the masked word. -/
theorem field_of_masked {w m p : Word} {s n : Nat} (h : w &&& m = p) (hm : m.extractLsb' s n = BitVec.allOnes n) :
    w.extractLsb' s n = p.extractLsb' s n := by
  subst h
  rw [BitVec.extractLsb'_and, hm, BitVec.and_allOnes]

/-- The opcode lies inside the mask. -/
theorem opcodeField_of_masked {w m : Word} {op : BitVec 8} (h : w &&& m = op.setWidth 32)
    (hm : m.extractLsb' 0 8 = BitVec.allOnes 8) : opcodeField w = op :=
  (field_of_masked h hm).trans (extract_opcode_at op)

/-- A field inside the mask and above the opcode is zero. -/
theorem zeroField_of_masked {w m : Word} {op : BitVec 8} {s n : Nat} (h : w &&& m = op.setWidth 32) (hs : 8 ≤ s)
    (hm : m.extractLsb' s n = BitVec.allOnes n) : zeroField w s n = true :=
  beq_iff_eq.mpr ((field_of_masked h hm).trans (extract_opcode_above op hs))

/-! ### The six formats (R61, R62) -/

/-- The command has the opcode and, by its mask, one of the six formats: the encoder and the decoder's arm for the
opcode are those of the format, for the command's constructor. -/
inductive HasFormat (op : BitVec 8) : Word → Instr → Prop where
  | r {mk : Reg → Reg → Reg → Instr} {rd rs1 rs2 : Reg}
      (enc : ∀ a b c, encode (mk a b c) = wordR (op.setWidth 32) a b c)
      (dec : ∀ w, opcodeField w = op → decode w = decodeR w mk) : HasFormat op maskR (mk rd rs1 rs2)
  | r1 {mk : Reg → Reg → Instr} {rd rs1 : Reg}
      (enc : ∀ a b, encode (mk a b) = wordR1 (op.setWidth 32) a b)
      (dec : ∀ w, opcodeField w = op → decode w = decodeR1 w mk) : HasFormat op maskR1 (mk rd rs1)
  | i {mk : Reg → BitVec 16 → Instr} {rd : Reg} {imm16 : BitVec 16}
      (enc : ∀ a b, encode (mk a b) = wordI (op.setWidth 32) a b)
      (dec : ∀ w, opcodeField w = op → decode w = decodeI w mk) : HasFormat op maskI (mk rd imm16)
  | c {mk : Reg → BitVec 8 → Instr} {rd : Reg} {csr : BitVec 8}
      (enc : ∀ a b, encode (mk a b) = wordC (op.setWidth 32) a b)
      (dec : ∀ w, opcodeField w = op → decode w = decodeC w mk) : HasFormat op maskC (mk rd csr)
  | k {mk : BitVec 8 → BitVec 16 → Instr} {csr : BitVec 8} {imm16 : BitVec 16}
      (enc : ∀ a b, encode (mk a b) = wordK (op.setWidth 32) a b)
      (dec : ∀ w, opcodeField w = op → decode w = decodeK w mk) : HasFormat op maskK (mk csr imm16)
  | n {i : Instr} (enc : encode i = op.setWidth 32)
      (dec : ∀ w, opcodeField w = op → decode w = decodeN w i) : HasFormat op maskN i

/-- Every command has the format and the opcode of its row (R63). -/
theorem hasFormat (i : Instr) : HasFormat ((rowOf i).pattern.setWidth 8) (rowOf i).mask i := by
  cases i
  case li | lih => exact .i (fun _ _ => rfl) fun w h => by unfold decode; rw [h]; rfl
  case csrr => exact .c (fun _ _ => rfl) fun w h => by unfold decode; rw [h]; rfl
  case csrw csr rs =>
    exact .c (mk := fun rs csr => .csrw csr rs) (fun _ _ => rfl) fun w h => by unfold decode; rw [h]; rfl
  case csrwi => exact .k (fun _ _ => rfl) fun w h => by unfold decode; rw [h]; rfl
  case reset | gfInit | emsaUpdate | emsaRawdata | emsaEncode | emsaVerify | emsaName | emsaSetid | emsaSetname =>
    exact .n rfl fun w h => by unfold decode; rw [h]; rfl
  case gfLog | gfExp | gfRed | gfSqr | gfSqrLn | gfSqrRr | gfSqrt | gfInv | gfInvRn | gfInvRr | gfDec =>
    exact .r1 (fun _ _ => rfl) fun w h => by unfold decode; rw [h]; rfl
  case gfMul | gfMulNnn | gfMulLll | gfMulRrr | gfMulNrr | gfMulRrn | gfMulLnn | gfMulRnn | gfMulNrn | gfMulZrz
      | gfDiv | gfDivNnn | gfDivRnn | gfDivRnr | gfDivNrr | gfDivZzr | gfDivRrr | gfPow | gfEnc =>
    exact .r (fun _ _ _ => rfl) fun w h => by unfold decode; rw [h]; rfl

namespace HasFormat

variable {op : BitVec 8} {mask : Word} {i : Instr}

/-- In every format the decoder reads back what the encoder wrote. -/
theorem decode_encode (h : HasFormat op mask i) : decode (encode i) = .ok i := by
  cases h with
  | r enc dec => rw [enc, dec _ (opcodeField_wordR ..), decodeR_wordR]
  | r1 enc dec => rw [enc, dec _ (opcodeField_wordR1 ..), decodeR1_wordR1]
  | i enc dec => rw [enc, dec _ (opcodeField_wordI ..), decodeI_wordI]
  | c enc dec => rw [enc, dec _ (opcodeField_wordC ..), decodeC_wordC]
  | k enc dec => rw [enc, dec _ (opcodeField_wordK ..), decodeK_wordK]
  | n enc dec =>
    rw [enc, dec _ (extract_opcode_at op)]
    exact checkZero_eq_ok.mpr ⟨beq_iff_eq.mpr (extract_opcode_above op le_rfl), rfl⟩

/-- A legal word whose opcode has the format is the word of the command it decodes to. -/
theorem encode_of_decode (h : HasFormat op mask i) {w : Word} {j : Instr} (ho : opcodeField w = op)
    (hd : decode w = .ok j) : encode j = w := by
  cases h with
  | r enc dec =>
    obtain ⟨hz, rfl⟩ := checkZero_eq_ok.mp ((dec w ho).symm.trans hd)
    rw [enc, ← ho, wordR_of_fields hz]
  | r1 enc dec =>
    obtain ⟨hz, rfl⟩ := checkZero_eq_ok.mp ((dec w ho).symm.trans hd)
    rw [enc, ← ho, wordR1_of_fields hz]
  | i enc dec =>
    obtain ⟨hz, rfl⟩ := checkZero_eq_ok.mp ((dec w ho).symm.trans hd)
    rw [enc, ← ho, wordI_of_fields hz]
  | c enc dec =>
    obtain ⟨hz, rfl⟩ := checkZero_eq_ok.mp ((dec w ho).symm.trans hd)
    obtain ⟨hz, hz'⟩ := Bool.and_eq_true_iff.mp hz
    rw [enc, ← ho, wordC_of_fields hz hz']
  | k enc dec =>
    obtain rfl := Except.ok.inj ((dec w ho).symm.trans hd)
    rw [enc, ← ho, wordK_of_fields]
  | n enc dec =>
    obtain ⟨hz, rfl⟩ := checkZero_eq_ok.mp ((dec w ho).symm.trans hd)
    rw [enc, ← ho, wordN_of_fields hz]

/-- A word that shows the opcode under the mask is legal: its must-be-zero fields lie inside the mask. -/
theorem decode_of_masked (h : HasFormat op mask i) {w : Word} (hw : w &&& mask = op.setWidth 32) :
    ∃ j, decode w = .ok j := by
  cases h
  case r _ dec | r1 _ dec | i _ dec | n _ dec =>
    exact ⟨_, (dec w (opcodeField_of_masked hw rfl)).trans <|
      checkZero_eq_ok.mpr ⟨zeroField_of_masked hw (by omega) rfl, rfl⟩⟩
  case c _ dec =>
    exact ⟨_, (dec w (opcodeField_of_masked hw rfl)).trans <| checkZero_eq_ok.mpr ⟨Bool.and_eq_true_iff.mpr
      ⟨zeroField_of_masked hw (by omega) rfl, zeroField_of_masked hw (by omega) rfl⟩, rfl⟩⟩
  case k _ dec => exact ⟨_, (dec w (opcodeField_of_masked hw rfl)).trans rfl⟩

end HasFormat

/-- Settles O1, format by format. -/
theorem everyCommandDecodesFromItsWord : Obligations.EveryCommandDecodesFromItsWord :=
  fun i => (hasFormat i).decode_encode

/-! ### The opcode map (R63) -/

/-- One command for each row of the opcode map. -/
def eachCommand : List Instr := [
  .li 0 0, .lih 0 0, .csrr 0 0, .csrw 0 0, .csrwi 0 0, .reset, .gfLog 0 0, .gfExp 0 0, .gfRed 0 0, .gfInit,
  .gfMul 0 0 0, .gfMulNnn 0 0 0, .gfMulLll 0 0 0, .gfMulRrr 0 0 0, .gfMulNrr 0 0 0, .gfMulRrn 0 0 0,
  .gfMulLnn 0 0 0, .gfMulRnn 0 0 0, .gfMulNrn 0 0 0, .gfMulZrz 0 0 0, .gfDiv 0 0 0, .gfDivNnn 0 0 0,
  .gfDivRnn 0 0 0, .gfDivRnr 0 0 0, .gfDivNrr 0 0 0, .gfDivZzr 0 0 0, .gfDivRrr 0 0 0, .gfSqr 0 0, .gfSqrLn 0 0,
  .gfSqrRr 0 0, .gfSqrt 0 0, .gfInv 0 0, .gfInvRn 0 0, .gfInvRr 0 0, .gfPow 0 0 0, .gfEnc 0 0 0, .gfDec 0 0,
  .emsaUpdate, .emsaRawdata, .emsaEncode, .emsaVerify, .emsaName, .emsaSetid, .emsaSetname]

/-- Their rows are the opcode map. -/
theorem eachCommand_rows : eachCommand.map rowOf = commandTable := rfl

/-- Every row of the map is the row of a command. -/
theorem exists_rowOf_eq {row : Row} (h : row ∈ commandTable) : ∃ i, rowOf i = row := by
  rw [← eachCommand_rows] at h
  obtain ⟨i, -, hi⟩ := List.mem_map.mp h
  exact ⟨i, hi⟩

/-- The opcode of a legal word is the opcode of a row. -/
theorem opcode_of_decode {w : Word} {i : Instr} (h : decode w = .ok i) :
    ∃ row ∈ commandTable, row.pattern.toNat = (opcodeField w).toNat := by
  unfold decode at h
  split at h
  case h_45 => cases h
  all_goals
    rw [‹(opcodeField w).toNat = _›]
    decide

/-- No two rows have the same opcode. -/
theorem row_eq_of_pattern_eq {row row' : Row} (h : row ∈ commandTable) (h' : row' ∈ commandTable)
    (hp : row.pattern = row'.pattern) : row = row' :=
  List.inj_on_of_nodup_map (by decide : (commandTable.map Row.pattern).Nodup) h h' hp

/-- The opcode of a row is 8 bits, and its mask covers them (R64). -/
theorem row_opcode : ∀ row ∈ commandTable,
    row.pattern = (row.pattern.setWidth 8).setWidth 32 ∧ row.mask.extractLsb' 0 8 = BitVec.allOnes 8 := by
  decide

/-- A word that matches a row shows the row's opcode under its mask. -/
theorem masked_of_matches {row : Row} {w : Word} (hr : row ∈ commandTable) (h : row.matches w = true) :
    w &&& row.mask = (row.pattern.setWidth 8).setWidth 32 :=
  (beq_iff_eq.mp h).trans (row_opcode row hr).1

/-- Two rows that one word matches have the word's opcode, and so are one. -/
theorem row_unique {row row' : Row} {w : Word} (hr : row ∈ commandTable) (hr' : row' ∈ commandTable)
    (h : row.matches w = true) (h' : row'.matches w = true) : row = row' := by
  have ho := opcodeField_of_masked (masked_of_matches hr h) (row_opcode row hr).2
  have ho' := opcodeField_of_masked (masked_of_matches hr' h') (row_opcode row' hr').2
  apply row_eq_of_pattern_eq hr hr'
  rw [(row_opcode row hr).1, (row_opcode row' hr').1, ← ho, ← ho']

/-- The word of every command matches the command's row. -/
theorem encodesLegal (i : Instr) : Laws.EncodesLegal.Statement i := by
  open Laws.EncodesLegal in
  cases i with
  | li => exact li ..
  | lih => exact lih ..
  | csrr => exact csrr ..
  | csrw => exact csrw ..
  | csrwi => exact csrwi ..
  | reset => exact reset ..
  | gfLog => exact gfLog ..
  | gfExp => exact gfExp ..
  | gfRed => exact gfRed ..
  | gfInit => exact gfInit ..
  | gfMul => exact gfMul ..
  | gfMulNnn => exact gfMulNnn ..
  | gfMulLll => exact gfMulLll ..
  | gfMulRrr => exact gfMulRrr ..
  | gfMulNrr => exact gfMulNrr ..
  | gfMulRrn => exact gfMulRrn ..
  | gfMulLnn => exact gfMulLnn ..
  | gfMulRnn => exact gfMulRnn ..
  | gfMulNrn => exact gfMulNrn ..
  | gfMulZrz => exact gfMulZrz ..
  | gfDiv => exact gfDiv ..
  | gfDivNnn => exact gfDivNnn ..
  | gfDivRnn => exact gfDivRnn ..
  | gfDivRnr => exact gfDivRnr ..
  | gfDivNrr => exact gfDivNrr ..
  | gfDivZzr => exact gfDivZzr ..
  | gfDivRrr => exact gfDivRrr ..
  | gfSqr => exact gfSqr ..
  | gfSqrLn => exact gfSqrLn ..
  | gfSqrRr => exact gfSqrRr ..
  | gfSqrt => exact gfSqrt ..
  | gfInv => exact gfInv ..
  | gfInvRn => exact gfInvRn ..
  | gfInvRr => exact gfInvRr ..
  | gfPow => exact gfPow ..
  | gfEnc => exact gfEnc ..
  | gfDec => exact gfDec ..
  | emsaUpdate => exact emsaUpdate ..
  | emsaRawdata => exact emsaRawdata ..
  | emsaEncode => exact emsaEncode ..
  | emsaVerify => exact emsaVerify ..
  | emsaName => exact emsaName ..
  | emsaSetid => exact emsaSetid ..
  | emsaSetname => exact emsaSetname ..

/-- Settles O2: the word has the opcode of a row, hence the format of a command. -/
theorem everyLegalWordIsTheWordOfItsCommand : Obligations.EveryLegalWordIsTheWordOfItsCommand := by
  intro w i h
  obtain ⟨row, hr, ho⟩ := opcode_of_decode h
  obtain ⟨j, rfl⟩ := exists_rowOf_eq hr
  refine (hasFormat j).encode_of_decode ?_ h
  apply BitVec.eq_of_toNat_eq
  have := (opcodeField w).isLt
  rw [BitVec.toNat_setWidth, ho, Nat.mod_eq_of_lt this]

/-- A word is legal iff it matches a row (R64, R66). -/
theorem legal_iff_matches {w : Word} :
    (∃ i, decode w = .ok i) ↔ ∃ row ∈ commandTable, row.matches w = true := by
  constructor
  · rintro ⟨i, h⟩
    obtain ⟨hr, hm⟩ := encodesLegal i
    exact ⟨rowOf i, hr, everyLegalWordIsTheWordOfItsCommand w i h ▸ hm⟩
  · rintro ⟨row, hr, hm⟩
    obtain ⟨i, rfl⟩ := exists_rowOf_eq hr
    exact (hasFormat i).decode_of_masked (masked_of_matches hr hm)

/-- Settles O3: the two directions, and the opcode that decides the row. -/
theorem decoderAcceptsWhatTheMaskTableMatches : Obligations.DecoderAcceptsWhatTheMaskTableMatches :=
  fun _ => ⟨legal_iff_matches, fun _ hr _ hr' h h' => row_unique hr hr' h h'⟩

/-- Settles O4: each word is the word of its command. -/
theorem wordsWrittenOutInTheSpecDecode : Obligations.WordsWrittenOutInTheSpecDecode := by
  have h := everyCommandDecodesFromItsWord
  exact ⟨h (.li 1 7), h (.csrr 5 0x12), h (.csrw 0x22 4), h (.csrwi 0x25 2048), h (.gfMul 3 1 2), h (.gfPow 3 1 2),
    h (.gfEnc 3 1 2), h .emsaEncode⟩

end Sys2Proof
end

section
/-! SUPPORT. What an illegal word does (30_encoding.md R66, 60_exceptions.md R203, R204), and what the commands of the
four pseudo-instructions do (30_encoding.md R68). -/

namespace Sys2Proof.Machine

open Sys2Proof.Safety

/-! ### An illegal word (R66, R204) -/

/-- Error entry leaves everything but the response, CAUSE and FAULTCMD (R203). -/
theorem errorEntry_latchError (s : State) (w : Word) (c : Status) :
    ErrorEntry w c s.pending s ((s.latchError c w).respond (.status c)) :=
  ⟨rfl, rfl, rfl, ⟨rfl, rfl⟩, fun _ => rfl, ⟨rfl, rfl⟩, ⟨rfl, rfl, rfl, rfl, rfl, rfl, rfl, rfl⟩, ⟨rfl, rfl⟩, rfl,
    ⟨rfl, rfl⟩, rfl, rfl, rfl⟩

/-- A word that matches no row runs to IllegalCommand. -/
theorem runCommand_illegal {w : Word} (h : ∀ row ∈ commandTable, row.matches w = false) (s : State) :
    runCommand w s = illegalCommand w s.countCommand := by
  unfold runCommand
  cases hd : decode w with
  | error => rfl
  | ok i =>
    obtain ⟨row, hr, hm⟩ := legal_iff_matches.mp ⟨i, hd⟩
    simp [h row hr] at hm

/-- Settles O6: the step is the error entry, and the five words are tried against every row. -/
theorem illegalWordRaisesIllegalCommand : Obligations.IllegalWordRaisesIllegalCommand := by
  refine ⟨fun s w rest hs hw => ?step, ?words⟩
  case step =>
    rw [step_command hs, runCommand_illegal hw]
    exact ⟨_, rfl, errorEntry_latchError _ w .illegalCommand⟩
  case words =>
    simp only [List.forall_mem_cons, List.not_mem_nil, false_implies, implies_true, and_true]
    exact ⟨by decide, by decide, by decide, by decide, by decide⟩

/-! ### A command that writes one register -/

/-- A register write sets that register and leaves the others (R12). -/
theorem setsReg_writeReg (s : State) (rd : Reg) (v : Word) : SetsReg rd v s (s.writeReg rd v) :=
  ⟨s.writeReg_readReg_same rd v, s.writeReg_marks rd v,
    fun _ h => ⟨s.writeReg_readReg_other v h, s.writeReg_marks_other v h⟩⟩

/-- A command that writes rd and ends OK changes nothing else. -/
theorem writesOnly_writeReg (s : State) (rd : Reg) (v : Word) :
    WritesOnly rd v s ((s.writeReg rd v).respond (.status .ok)) :=
  ⟨rfl, setsReg_writeReg s rd v, fun _ => rfl, ⟨rfl, rfl⟩, ⟨rfl, rfl⟩,
    ⟨⟨rfl, rfl, rfl, rfl, rfl, rfl, rfl, rfl⟩, ⟨rfl, rfl⟩, rfl, rfl, rfl⟩, rfl, rfl, rfl⟩

/-- A field command with two sources and a defined value writes it to rd and ends OK. -/
theorem fieldBinary_writesOnly {i : Instr} {rd rs1 rs2 : Reg} {op : Field → Word → Word → Except Fault Int}
    {s : State} {v : Int} (hf : s.frozen = true) (hv : op s.field s.x[rs1.val] s.x[rs2.val] = .ok v) :
    ∃ t, fieldBinary i rd rs1 rs2 op s = .next t ∧ WritesOnly rd (BitVec.ofInt 32 v) s t := by
  refine ⟨_, ?_, writesOnly_writeReg s rd _⟩
  rw [fieldBinary, if_pos hf, State.readReg, State.readReg, hv]
  exact writeResult_ok rd v s

/-! ### Operands in their sets (42_gf_field.md R129) -/

section Values

variable {f : Field} {v w : Word}

/-- An r operand with no undefined case is 0 to ord. -/
theorem le_ord_of_badR (h : badR f v = none) : v.toNat ≤ f.ord := by
  unfold badR at h
  split at h
  · cases h
  · omega

/-- A z operand with no undefined case is below q. -/
theorem lt_q_of_badZ (h : badZ f v = none) : v.toNat < f.q := by
  unfold badZ at h
  split at h
  · cases h
  · omega

/-- An n operand with no undefined case is a non-zero z operand. -/
theorem badN_eq_none : badN f v = none ↔ badZ f v = none ∧ v ≠ 0 := by
  unfold badN badZ
  split <;> simp

/-! ### The values of the r, n and r, z multiplies (43_gf_multiply.md R146, R149, R150) -/

variable (hv : TablesValid f) (hm16 : f.m ≤ 16)
include hv

/-- `LOG[y]` of a non-zero element, as the commands look it up. -/
theorem Field.log_toNat (hq : w.toNat < f.q) (h0 : w ≠ 0) : f.log w.toNat = .ok (logOf f w) :=
  Field.log_eq_entry hv (BitVec.toNat_pos_of_ne_zero h0) hq

include hm16

/-- `EXP` of the reduced sum of a logarithm and the logarithm of a non-zero element. -/
theorem Field.exp_reduce (ha : v.toNat ≤ f.ord) (hq : w.toNat < f.q) (h0 : w ≠ 0) :
    f.exp (f.reduce (v.toNat + logOf f w)) = .ok (expOf f (foldOnce f (v.toNat + logOf f w))) := by
  have hlog := Field.log_range hv (Field.log_toNat hv hq h0)
  obtain ⟨hlo, hhi⟩ := foldOnce_range f (d := v.toNat + logOf f w) (by omega) (by omega)
  rw [Field.reduce_eq_foldOnce (by omega)]
  lift foldOnce f (v.toNat + logOf f w) to Nat using hlo with r
  exact Field.exp_eq_entry hv (by omega)

/-- GF.MUL.RRN's value on legal operands (R146). -/
theorem Field.mulRrnValue_eq (ha : badR f v = none) (hb : badN f w = none) :
    f.mulRrnValue v w = .ok (foldOnce f (v.toNat + logOf f w)) := by
  obtain ⟨hz, h0⟩ := badN_eq_none.mp hb
  have hq := lt_q_of_badZ hz
  exact except_bind_ok.mpr ⟨_, Field.logR_eq_ok.mpr ⟨rfl, le_ord_of_badR ha⟩, except_bind_ok.mpr
    ⟨_, Field.elemN_eq_ok.mpr ⟨rfl, BitVec.toNat_pos_of_ne_zero h0, hq⟩, except_bind_ok.mpr
      ⟨_, Field.log_toNat hv hq h0, congrArg Except.ok (Field.reduce_eq_foldOnce (by omega) _)⟩⟩⟩

/-- GF.MUL.NRN's value on legal operands (R149). -/
theorem Field.mulNrnValue_eq (ha : badR f v = none) (hb : badN f w = none) :
    f.mulNrnValue v w = .ok (expOf f (foldOnce f (v.toNat + logOf f w))) := by
  obtain ⟨hz, h0⟩ := badN_eq_none.mp hb
  have hq := lt_q_of_badZ hz
  exact except_bind_ok.mpr ⟨_, Field.logR_eq_ok.mpr ⟨rfl, le_ord_of_badR ha⟩, except_bind_ok.mpr
    ⟨_, Field.elemN_eq_ok.mpr ⟨rfl, BitVec.toNat_pos_of_ne_zero h0, hq⟩, except_bind_ok.mpr
      ⟨_, Field.log_toNat hv hq h0, Field.exp_reduce hv hm16 (le_ord_of_badR ha) hq h0⟩⟩⟩

/-- GF.MUL.ZRZ's value on legal operands (R150). -/
theorem Field.mulZrzValue_eq (ha : badR f v = none) (hb : badZ f w = none) :
    f.mulZrzValue v w = .ok (if w = 0 then 0 else expOf f (foldOnce f (v.toNat + logOf f w))) := by
  have hq := lt_q_of_badZ hb
  refine except_bind_ok.mpr ⟨_, Field.logR_eq_ok.mpr ⟨rfl, le_ord_of_badR ha⟩, except_bind_ok.mpr
    ⟨_, Field.elemZ_eq_ok.mpr ⟨rfl, hq⟩, ?_⟩⟩
  by_cases h0 : w = 0
  · subst h0
    rfl
  · rw [if_neg h0, if_neg (BitVec.toNat_pos_of_ne_zero h0).ne']
    exact except_bind_ok.mpr ⟨_, Field.log_toNat hv hq h0, Field.exp_reduce hv hm16 (le_ord_of_badR ha) hq h0⟩

end Values

/-! ### LI32 (R68, R81, R82) -/

/-- The two halves of a word are the immediates of LI32. -/
theorem halves_eq_immediates (v : Word) :
    v.extractLsb' 0 16 = BitVec.ofNat 16 (v.toNat % 65536) ∧
      v.extractLsb' 16 16 = BitVec.ofNat 16 (v.toNat / 65536) := by
  constructor <;> apply BitVec.eq_of_toNat_eq <;> simp [Nat.shiftRight_eq_div_pow]

/-- LIH after LI puts the word together from its halves. -/
theorem high_or_low (v : Word) :
    (v.extractLsb' 16 16).setWidth 32 <<< 16 |||
      (((v.extractLsb' 0 16).setWidth 32 : Word).extractLsb' 0 16).setWidth 32 = v := by
  have hlow : ((v.extractLsb' 0 16).setWidth 32 : Word).extractLsb' 0 16 = v.extractLsb' 0 16 := by
    simpa using extract_at (v.extractLsb' 0 16) (k := 0) (by omega)
  rw [hlow, BitVec.or_comm, low_or_field, low_all]

/-- A register written twice holds the last value, and the others stay. -/
theorem setsReg_trans {rd : Reg} {v v' : Word} {s t u : State} (h : SetsReg rd v s t) (h' : SetsReg rd v' t u) :
    SetsReg rd v' s u := by
  obtain ⟨-, -, hother⟩ := h
  obtain ⟨hx, hw, hother'⟩ := h'
  exact ⟨hx, hw, fun r hr => ⟨(hother' r hr).1.trans (hother r hr).1, (hother' r hr).2.trans (hother r hr).2⟩⟩

/-- LIH answers OK with the immediate over the low half in rd (R82). -/
theorem exec_lih {rd : Reg} {imm16 : BitVec 16} {v : Word} {s : State}
    (h : imm16.setWidth 32 <<< 16 ||| ((s.readReg rd).extractLsb' 0 16).setWidth 32 = v) :
    exec (.lih rd imm16) s = .next ((s.writeReg rd v).respond (.status .ok)) := by
  subst h
  rfl

/-- In every state LI and LIH of the two halves end OK, leave the word in rd and change nothing else. -/
theorem exec_li_lih (rd : Reg) (v : Word) (s : State) : ∃ t u, exec (.li rd (v.extractLsb' 0 16)) s = .next t ∧
    exec (.lih rd (v.extractLsb' 16 16)) t = .next u ∧ Responds .ok s t ∧ Responds .ok t u ∧ SetsReg rd v s u ∧
    SameBuf s u ∧ SameError s u ∧ SameGf s u ∧ SameEmsa s u ∧ SamePorts s u := by
  have hlih := exec_lih (s := (s.writeReg rd ((v.extractLsb' 0 16).setWidth 32)).respond (.status .ok))
    (rd := rd) (imm16 := v.extractLsb' 16 16) (v := v) <| by
      rw [State.respond_readReg, State.writeReg_readReg_same, high_or_low]
  exact ⟨_, _, rfl, hlih, rfl, rfl, setsReg_trans (setsReg_writeReg s rd _) (setsReg_writeReg _ rd v),
    fun _ => rfl, ⟨rfl, rfl⟩, ⟨rfl, rfl⟩,
    ⟨⟨rfl, rfl, rfl, rfl, rfl, rfl, rfl, rfl⟩, ⟨rfl, rfl⟩, rfl, rfl, rfl⟩, rfl, rfl, rfl⟩

/-- Settles O60: the expansions, then the value of each multiply, then LI and LIH of the two halves. -/
theorem pseudoInstructionsDoWhatTheySay : Obligations.PseudoInstructionsDoWhatTheySay := by
  refine ⟨fun _ _ _ => ⟨rfl, rfl, rfl⟩, fun rd v => ?li32, fun rd ry ra s hs _ _ ha => ?multiplies,
    fun rd v s => ?run⟩
  case li32 =>
    obtain ⟨hlo, hhi⟩ := halves_eq_immediates v
    rw [← hlo, ← hhi]
    rfl
  case multiplies =>
    obtain ⟨hf, -, hm16, hv⟩ := hs
    exact ⟨fun hb => ⟨fieldBinary_writesOnly hf (Field.mulRrnValue_eq hv hm16 ha hb),
      fieldBinary_writesOnly hf (Field.mulNrnValue_eq hv hm16 ha hb)⟩,
      fun hb => fieldBinary_writesOnly hf (Field.mulZrzValue_eq hv hm16 ha hb)⟩
  case run =>
    obtain ⟨hlo, hhi⟩ := halves_eq_immediates v
    rw [← hlo, ← hhi]
    exact exec_li_lih rd v s

end Sys2Proof.Machine
end

section
/-! SUPPORT. What the system commands do (40_system.md R81 to R85): the values that LI, LIH and CSRR write, and the
rule of a CSR write, said once for CSRW and CSRWI. -/

namespace Sys2Proof.Machine

open Sys2Proof.Safety

/-! ### What the CSRs read after a write of one (R84) -/

/-- A CSR that was written with a legal value reads it. -/
theorem State.writeCsr_readCsr_same (s : State) {c : Csr} {v : Word} (hc : plainWritable c = true)
    (hv : c = .emsaMode → v.toNat ≤ 1) : (s.writeCsr c v).readCsr c = v := by
  cases c with
  | gfM | emsaExpect | emsaSrc | emsaLen | emsaDst | emsaBits | emsaAux | emsaAuxLen => rfl
  | emsaMode =>
    have hbit : v = 0 ∨ v = 1 := by have := hv rfl; bv_omega
    rcases hbit with rfl | rfl <;> rfl
  | _ => exact absurd hc (by decide)

/-- A write of an unlocked CSR leaves GF_Q and GF_ORD: it keeps GF_M, or FROZEN is 0 and they read 0 (R19, R21). -/
theorem State.writeCsr_gfQ_gfOrd (s : State) {c : Csr} (v : Word) (hl : s.csrLocked c = false) :
    (s.writeCsr c v).gfQWord = s.gfQWord ∧ (s.writeCsr c v).gfOrdWord = s.gfOrdWord := by
  cases c with
  | gfM =>
    obtain ⟨hq, hord⟩ := State.gfQ_gfOrd_of_not_frozen hl
    obtain ⟨hq', hord'⟩ := State.gfQ_gfOrd_of_not_frozen (s := s.writeCsr .gfM v) hl
    exact ⟨hq'.trans hq.symm, hord'.trans hord.symm⟩
  | _ => exact ⟨rfl, rfl⟩

/-- A write of an unlocked CSR leaves what every other CSR reads, but that a write of CAUSE clears FAULTCMD too. -/
theorem State.writeCsr_readCsr_ne (s : State) {c c' : Csr} (v : Word) (hl : s.csrLocked c = false) (hne : c' ≠ c)
    (hfault : c = .cause → c' ≠ .faultCmd) : (s.writeCsr c v).readCsr c' = s.readCsr c' := by
  cases c' with
  | gfM | emsaMode | emsaExpect | emsaSrc | emsaLen | emsaDst | emsaBits | emsaAux | emsaAuxLen =>
    exact s.writeCsr_readCsr_other v hne rfl
  | gfQ => exact (s.writeCsr_gfQ_gfOrd v hl).1
  | gfOrd => exact (s.writeCsr_gfQ_gfOrd v hl).2
  | cause => exact (s.writeCsr_sameError v hne.symm).1
  | faultCmd => exact (s.writeCsr_sameError v fun h => hfault h rfl).2
  | status | emsaOutLen | emsaResult | emsaPendLen | emsaIdLen | emsaNameLen | emsaHashLen => cases c <;> rfl

/-- A write of CAUSE clears CAUSE and FAULTCMD and changes nothing else (R17). -/
theorem errorCleared_writeCsr (s : State) (v : Word) :
    ErrorCleared s ((s.writeCsr .cause v).respond (.status .ok)) :=
  ⟨rfl, rfl, rfl,
    fun c h h' => (State.respond_readCsr _ _ c).trans (s.writeCsr_readCsr_ne v rfl h fun _ => h'),
    ⟨rfl, rfl⟩, fun _ => rfl, rfl, rfl, ⟨rfl, rfl⟩, rfl, rfl, rfl⟩

/-- A write of another unlocked CSR with a legal value changes what that CSR reads and nothing else. -/
theorem csrWritten_writeCsr (s : State) {c : Csr} {v : Word} (hc : plainWritable c = true)
    (hl : s.csrLocked c = false) (hv : c = .emsaMode → v.toNat ≤ 1) :
    CsrWritten c v s ((s.writeCsr c v).respond (.status .ok)) := by
  have hcause : c ≠ .cause := by
    rintro rfl
    exact absurd hc (by decide)
  obtain ⟨hx, hmarks, hbuf, hfrozen, -, -, hpend, hid, hname, hinputs, hresponses, hindex, hparams⟩ :=
    s.writeCsr_frame c v
  exact ⟨responds_respond hresponses,
    (State.respond_readCsr _ _ c).trans (s.writeCsr_readCsr_same hc hv),
    fun c' h => (State.respond_readCsr _ _ c').trans (s.writeCsr_readCsr_ne v hl h fun h' => absurd h' hcause),
    ⟨hx, hmarks⟩, fun a => congrArg (Memory.read · a) hbuf, hfrozen, hpend, ⟨hid, hname⟩, hinputs, hindex, hparams⟩

/-! ### The tests of a CSR write, in their order (R84) -/

/-- The locked CSRs are those that R84 forbids to write now. -/
theorem csrLocked_iff_writeForbidden {s : State} {c : Csr} : s.csrLocked c = true ↔ writeForbidden c s := by
  cases c <;> simp [State.csrLocked, State.emsaBusy, writeForbidden]

/-- A locked CSR is none of the read-only ones. -/
theorem readOnly_of_csrLocked {s : State} {c : Csr} (h : s.csrLocked c = true) : c.readOnly = false := by
  cases c with
  | gfM | emsaMode | emsaExpect => rfl
  | _ => exact absurd h Bool.false_ne_true

/-- The CSRs that a write may reach are none of the read-only ones (R15). -/
theorem readOnly_of_plainWritable {c : Csr} (h : plainWritable c = true) : c.readOnly = false := by
  cases c with
  | gfM | emsaMode | emsaExpect | emsaSrc | emsaLen | emsaDst | emsaBits | emsaAux | emsaAuxLen => rfl
  | _ => exact absurd h (by decide)

/-- A value is bad in EMSA_MODE alone, where it is above 1 (R22). -/
theorem csrValueBad_iff {c : Csr} {v : Word} : csrValueBad c v = true ↔ c = .emsaMode ∧ 1 < v.toNat := by
  cases c <;> simp [csrValueBad]

section Tests

variable (i : Instr) {n : BitVec 8} {c : Csr} (v : Word) {s : State}

/-- A number that names no CSR. -/
theorem csrWrite_unmapped (h : Csr.ofNumber n = none) (s : State) : csrWrite i n v s = raise i .illegalCsr s := by
  simp [csrWrite, h]

variable (hc : Csr.ofNumber n = some c)
include hc

/-- A read-only CSR. -/
theorem csrWrite_readOnly (hr : c.readOnly = true) (s : State) : csrWrite i n v s = raise i .illegalCsr s := by
  simp [csrWrite, hc, hr]

/-- A locked CSR. -/
theorem csrWrite_locked (hl : s.csrLocked c = true) : csrWrite i n v s = raise i .illegalState s := by
  simp [csrWrite, hc, readOnly_of_csrLocked hl, hl]

variable (hr : c.readOnly = false) (hl : s.csrLocked c = false)
include hr hl

/-- A value outside the legal set of the CSR. -/
theorem csrWrite_bad (hv : csrValueBad c v = true) : csrWrite i n v s = raise i .badConfig s := by
  simp [csrWrite, hc, hr, hl, hv]

/-- No test fails. -/
theorem csrWrite_done (hv : csrValueBad c v = false) :
    csrWrite i n v s = .next ((s.writeCsr c v).respond (.status .ok)) := by
  simp [csrWrite, hc, hr, hl, hv, done]

end Tests

/-- A command that runs a CSR write follows the rule of R84, whatever makes its value a defined one. -/
theorem csrWriteRule_of_exec_eq {i : Instr} {n : BitVec 8} {v : Word} {defined : Prop} {s : State}
    (h : exec i s = csrWrite i n v s) : CsrWriteRule i n v defined s := by
  obtain ⟨-, hlisted, -⟩ := csrMapAndReadValues
  refine ⟨fun hn => ?unmapped, fun c hc => ⟨fun hr => ?readOnly, fun hf => ?locked, fun _ hmode hpend hv => ?bad,
    fun _ hcause => ?cause, fun _ hplain hf hv => ?plain⟩⟩
  case unmapped => exact raises_of_exec_eq (h.trans (csrWrite_unmapped i v hn s))
  case readOnly => exact raises_of_exec_eq (h.trans (csrWrite_readOnly i v hc ((hlisted c).trans hr) s))
  case locked => exact raises_of_exec_eq (h.trans (csrWrite_locked i v hc (csrLocked_iff_writeForbidden.mpr hf)))
  case bad =>
    subst hmode
    have hl : s.csrLocked .emsaMode = false := by simp [State.csrLocked, State.emsaBusy, hpend]
    exact raises_of_exec_eq (h.trans (csrWrite_bad i v hc rfl hl (csrValueBad_iff.mpr ⟨rfl, hv⟩)))
  case cause =>
    subst hcause
    exact ⟨_, h.trans (csrWrite_done i v hc rfl rfl rfl), errorCleared_writeCsr s v⟩
  case plain =>
    have hl : s.csrLocked c = false := Bool.eq_false_iff.mpr (mt csrLocked_iff_writeForbidden.mp hf)
    have hlegal : csrValueBad c v = false :=
      Bool.eq_false_iff.mpr fun hbad =>
        have ⟨hmode, habove⟩ := csrValueBad_iff.mp hbad
        absurd (hv hmode) (not_le.mpr habove)
    exact ⟨_, h.trans (csrWrite_done i v hc (readOnly_of_plainWritable hplain) hl hlegal),
      csrWritten_writeCsr s hplain hl hv⟩

/-- Settles O15: CSRW runs the CSR write on the register's value. -/
theorem csrWriteFromRegister : Obligations.CsrWriteFromRegister :=
  fun _ _ _ => csrWriteRule_of_exec_eq rfl

/-- Settles O16: CSRWI runs the CSR write on the zero-extended immediate. -/
theorem csrWriteFromImmediate : Obligations.CsrWriteFromImmediate := by
  intro n imm16 s
  rw [BitVec.ofNat_toNat]
  exact csrWriteRule_of_exec_eq rfl

/-! ### The commands that write one register (R81, R82, R83) -/

/-- Settles O11: LI writes the zero-extended immediate to rd. -/
theorem loadImmediateZeroExtends : Obligations.LoadImmediateZeroExtends := by
  intro rd imm16 s
  rw [BitVec.ofNat_toNat]
  exact ⟨_, rfl, writesOnly_writeReg s rd _⟩

/-- An immediate put over the low half of a word, as a number (R82). -/
theorem high_or_low_eq_ofNat (imm16 : BitVec 16) (v : Word) :
    imm16.setWidth 32 <<< 16 ||| (v.extractLsb' 0 16).setWidth 32 =
      BitVec.ofNat 32 (imm16.toNat * 65536 + v.toNat % 65536) := by
  have hlow : v.toNat % 65536 < 2 ^ 16 := Nat.mod_lt _ (by decide)
  have himm : imm16.toNat % 4294967296 = imm16.toNat := Nat.mod_eq_of_lt (by omega)
  rw [show imm16.toNat * 65536 = imm16.toNat <<< 16 from (Nat.shiftLeft_eq _ 16).symm,
    Nat.shiftLeft_add_eq_or_of_lt hlow]
  apply BitVec.eq_of_toNat_eq
  simp [himm]

/-- Settles O12: LIH writes to rd the immediate over rd's low half. -/
theorem loadImmediateHighKeepsTheLowHalf : Obligations.LoadImmediateHighKeepsTheLowHalf :=
  fun rd imm16 s _ => ⟨_, exec_lih (high_or_low_eq_ofNat imm16 (s.readReg rd)), writesOnly_writeReg s rd _⟩

/-- CSRR of a number that names no CSR raises IllegalCsr. -/
theorem exec_csrr_unmapped {n : BitVec 8} (h : Csr.ofNumber n = none) (rd : Reg) (s : State) :
    exec (.csrr rd n) s = raise (.csrr rd n) .illegalCsr s := by
  simp [exec, execCsrr, h]

/-- CSRR of a CSR writes its read value to rd. -/
theorem exec_csrr_mapped {n : BitVec 8} {c : Csr} (h : Csr.ofNumber n = some c) (rd : Reg) (s : State) :
    exec (.csrr rd n) s = .next ((s.writeReg rd (s.readCsr c)).respond (.status .ok)) := by
  simp [exec, execCsrr, h, done]

/-- Settles O13: the two cases of the number. -/
theorem csrReadWritesTheReadValue : Obligations.CsrReadWritesTheReadValue :=
  fun rd _ s => ⟨fun h => raises_of_exec_eq (exec_csrr_unmapped h rd s),
    fun _ h => ⟨_, exec_csrr_mapped h rd s, writesOnly_writeReg s rd _⟩⟩

end Sys2Proof.Machine
end

section
/-! SUPPORT. The block of EmsaEncode (41_emsa.md R91), byte by byte, the value of EMSA.VERIFY's comparison (R104), and
the comparator that computes it (R105). -/

namespace Sys2Proof.Machine

open Sys2Proof.Safety

/-! ### The block -/

section Block

variable (k : Nat) (hashId digest : List Byte)

/-- The bytes after the block's two first ones. -/
theorem blockOf_getElem?_add_two (o : Nat) :
    (blockOf k hashId digest)[o + 2]? = (List.replicate k 0xFF ++ 0x00 :: (hashId ++ digest))[o]? := by
  simp [blockOf]

/-- The padding string fills the offsets 2 to k + 1. -/
theorem blockOf_padding {o : Nat} (h2 : 2 ≤ o) (ho : o ≤ k + 1) : (blockOf k hashId digest)[o]? = some 0xFF := by
  obtain ⟨j, rfl⟩ := Nat.exists_eq_add_of_le' h2
  rw [blockOf_getElem?_add_two, List.getElem?_append_left (by simp; omega)]
  exact List.getElem?_replicate_of_lt (by omega)

/-- The byte after the padding string is 00. -/
theorem blockOf_separator : (blockOf k hashId digest)[k + 2]? = some 0x00 := by
  rw [blockOf_getElem?_add_two, List.getElem?_append_right (by simp)]
  simp

/-- The DigestInfo follows. -/
theorem blockOf_drop : (blockOf k hashId digest).drop (k + 3) = hashId ++ digest :=
  List.drop_left' (by simp)

end Block

/-! ### EmsaEncode -/

section Encode

variable {hashId digest : List Byte} {bits : Nat}

/-- A block that can be built has what is left of output_len as its padding string (R91, R101). -/
theorem emsaEncode_eq_blockOf (h : hashId.length + digest.length + 11 ≤ outputLen bits) :
    emsaEncode hashId digest bits =
      some (blockOf (outputLen bits - 3 - (hashId.length + digest.length)) hashId digest) := by
  have hps : psLen hashId digest bits = (outputLen bits - 3 - (hashId.length + digest.length) : Nat) := by
    simp only [psLen, List.length_append]
    omega
  have hmin : ¬psLen hashId digest bits < Config.psMin := by
    rw [hps, Config.psMin]
    omega
  rw [emsaEncode, if_neg hmin, hps, Int.toNat_natCast, blockOf]
  simp only [List.append_assoc]

end Encode

/-- Settles O38: the two sides of R91's test, and the bytes of `blockOf`. -/
theorem encodedBlockLayout : Obligations.EncodedBlockLayout := by
  intro hashId digest bits
  refine ⟨fun h => ?failure, fun k hk h8 => ?block⟩
  case failure =>
    apply emsaEncode_eq_none.mpr
    unfold outputLen
    omega
  case block =>
    have hfits : hashId.length + digest.length + 11 ≤ outputLen bits := by unfold outputLen; omega
    have hlen : outputLen bits - 3 - (hashId.length + digest.length) = k := by unfold outputLen; omega
    have henc := emsaEncode_eq_blockOf hfits
    rw [hlen] at henc
    exact ⟨_, henc, rfl, emsaEncode_length henc, rfl, rfl, fun _ => blockOf_padding k hashId digest,
      blockOf_separator k hashId digest, blockOf_drop k hashId digest⟩

/-! ### The comparison of EMSA.VERIFY -/

section Compare

variable {hashId raw : List Byte} {bits : Nat}

/-- With a block to compare with, the value is exact equality (R104). -/
theorem verifyValue_of_block {block : List Byte} (h : emsaEncode hashId raw bits = some block) (coded : List Byte) :
    verifyValue hashId raw coded bits = decide (coded = block) := by
  rw [verifyValue, h]

/-- The value is true exactly when the block can be built and coded is that block (R104). -/
theorem verifyValue_eq_true {coded : List Byte} :
    verifyValue hashId raw coded bits = true ↔ hashId.length + raw.length + 11 ≤ outputLen bits ∧
      coded = blockOf (outputLen bits - 3 - (hashId.length + raw.length)) hashId raw := by
  by_cases hfits : hashId.length + raw.length + 11 ≤ outputLen bits
  · rw [verifyValue_of_block (emsaEncode_eq_blockOf hfits), decide_eq_true_iff, and_iff_right hfits]
  · have hnone : emsaEncode hashId raw bits = none := emsaEncode_eq_none.mpr (not_le.mp hfits)
    simp [verifyValue, hnone, hfits]

/-- One position leaves the accumulator 0 exactly when it was 0 and the two bytes agree. -/
theorem comparatorStep_eq_zero {coded block : List Byte} {diff : Byte} {i : Nat} :
    comparatorStep coded block diff i = 0 ↔ diff = 0 ∧ (coded[i]?).getD 0 = (block[i]?).getD 0 := by
  rw [comparatorStep]
  exact BitVec.or_eq_zero_iff.trans (and_congr_right' BitVec.xor_eq_zero_iff)

/-- The loop ends at 0 exactly when it starts there and the bytes agree at every position it visits. -/
theorem comparatorLoop_eq_zero {coded block : List Byte} {positions : List Nat} {diff : Byte} :
    positions.foldl (comparatorStep coded block) diff = 0 ↔
      diff = 0 ∧ ∀ i ∈ positions, (coded[i]?).getD 0 = (block[i]?).getD 0 := by
  induction positions generalizing diff with
  | nil => simp
  | cons i positions ih => rw [List.foldl_cons, ih, comparatorStep_eq_zero, List.forall_mem_cons, and_assoc]

/-- Sequences of one length are equal when they agree at every position, 00 read past the end. -/
theorem eq_of_getD_eq {coded block : List Byte} (hlen : coded.length = block.length)
    (h : ∀ i < block.length, (coded[i]?).getD 0 = (block[i]?).getD 0) : coded = block := by
  refine List.ext_getElem hlen fun i hc hb => ?_
  simpa [hc, hb] using h i hb

/-- The comparator is exact equality (R105). -/
theorem comparator_eq_true {coded block : List Byte} : comparator coded block = true ↔ coded = block := by
  have hinit : (if coded.length = block.length then (0 : Byte) else 1) = 0 ↔ coded.length = block.length := by simp
  rw [comparator, beq_iff_eq, comparatorLoop_eq_zero, hinit]
  constructor
  · rintro ⟨hlen, hbytes⟩
    exact eq_of_getD_eq hlen fun i hi => hbytes i (List.mem_range.mpr hi)
  · rintro rfl
    exact ⟨rfl, fun _ _ => rfl⟩

end Compare

/-- Settles O48: both sides are equality with the block. -/
theorem comparatorComputesEquality : Obligations.ComparatorComputesEquality := by
  refine ⟨fun _ _ => comparator_eq_true, fun hashId raw coded bits block h => ?_⟩
  rw [verifyValue_of_block h, Bool.eq_iff_iff, decide_eq_true_iff, comparator_eq_true]

end Sys2Proof.Machine
end

section
/-! SUPPORT. What the commands of the padding engine do (41_emsa.md R95 to R107): each test of a command one equation,
then the frame of what it writes. -/

namespace Sys2Proof.Machine

open Sys2Proof.Safety

/-! ### Ranges and bytes of BUF (20_memory.md R41, R42, R44) -/

section Ranges

variable {a n : Nat} {bs : List Byte} {k : List Byte → State → Result} {s t : State}

/-- A range within BUF passes the range check. -/
theorem inBuf_of_fits (h : a + n ≤ 65536) : inBuf a n = true := inBuf_iff.mpr h

/-- A range beyond BUF fails it. -/
theorem inBuf_of_beyond (h : 65536 < a + n) : inBuf a n = false :=
  Bool.eq_false_iff.mpr (mt inBuf_iff.mp (not_le.mpr h))

/-- A command over bytes that BUF holds goes on with them. -/
theorem withBytes_of_holds (hl : bs.length = n) (h : Holds s a bs) : withBytes a n k s = k bs s := by
  rw [withBytes, Memory.readRange_eq_some.mpr ⟨hl, h⟩]

/-- A command over a range with an unwritten byte is undefined. -/
theorem withBytes_of_unwritten (h : SomeUnwritten s a n) : withBytes a n k s = .fault .unwrittenMemory := by
  rw [withBytes, Memory.readRange_eq_none.mpr h]

/-- A range that holds its bytes has no unwritten one. -/
theorem not_someUnwritten_of_holds (hl : bs.length = n) (h : Holds s a bs) : ¬SomeUnwritten s a n := by
  rintro ⟨i, hi, hnone⟩
  simpa [hl, hi, hnone] using h i

/-- Every range has an unwritten byte or holds its bytes. -/
theorem someUnwritten_or_holds (s : State) (a n : Nat) :
    SomeUnwritten s a n ∨ ∃ bs : List Byte, bs.length = n ∧ Holds s a bs := by
  cases h : Memory.readRange s.buf a n with
  | none => exact .inl (Memory.readRange_eq_none.mp h)
  | some bs => exact .inr ⟨bs, Memory.readRange_eq_some.mp h⟩

/-- A range that a write of other bytes does not meet holds what it held (R43). -/
theorem holds_of_stores {b : Nat} {cs : List Byte} (hst : Stores b cs s t) (h : Holds s a bs)
    (hapart : a + bs.length ≤ b ∨ b + cs.length ≤ a) : Holds t a bs :=
  fun i hi => (hst.2 (a + i) (by omega)).trans (h i hi)

end Ranges

/-! ### How a command of the engine ends -/

/-- An error raised after PENDING was emptied (R93). -/
theorem raisesAndEmpties_of_exec_eq {i : Instr} {c : Status} {s : State}
    (h : exec i s = raise i c (s.setPending [])) : RaisesAndEmpties i c s :=
  ⟨_, h, errorEntry_latchError (s.setPending []) (encode i) c⟩

/-- The bytes of a command that writes BUF, their number, PENDING, and nothing else (R25, R43). -/
theorem wroteOut_of_exec_eq {i : Instr} {a : Nat} {bs pending : List Byte} {s : State}
    (h : exec i s = writeOut a bs (s.setPending pending)) (hfits : a + bs.length ≤ 65536) :
    ∃ t, exec i s = .next t ∧ WroteOut a bs pending s t :=
  ⟨_, h, rfl, s.setBuf_writeRange_stores a bs, (BitVec.toNat_ofNat ..).trans (Nat.mod_eq_of_lt (by omega)), rfl,
    ⟨rfl, rfl⟩, ⟨rfl, rfl⟩, ⟨rfl, rfl⟩, ⟨rfl, rfl, rfl, rfl, rfl, rfl, rfl, rfl⟩, rfl, ⟨rfl, rfl⟩, rfl, rfl, rfl⟩

/-- PENDING and EMSA_RESULT, and nothing else. -/
theorem emsaSets_setPending_setResult (s : State) (pending : List Byte) (result : Bool) :
    EmsaSets pending result s (((s.setPending pending).setResult result).respond (.status .ok)) :=
  ⟨rfl, rfl, rfl, rfl, ⟨rfl, rfl⟩, fun _ => rfl, ⟨rfl, rfl⟩, ⟨rfl, rfl⟩, ⟨rfl, rfl, rfl, rfl, rfl, rfl, rfl, rfl⟩,
    ⟨rfl, rfl⟩, rfl, rfl, rfl⟩

/-- HASH_ID and HASH_NAME, and nothing else. -/
theorem storesLoaded_setHashId_setHashName (s : State) (hashId hashName : List Byte) :
    StoresLoaded hashId hashName s (((s.setHashId hashId).setHashName hashName).respond (.status .ok)) :=
  ⟨rfl, rfl, rfl, rfl, ⟨rfl, rfl⟩, fun _ => rfl, ⟨rfl, rfl⟩, ⟨rfl, rfl⟩, ⟨rfl, rfl, rfl, rfl, rfl, rfl, rfl, rfl⟩,
    ⟨rfl, rfl⟩, rfl, rfl, rfl⟩

/-! ### EMSA.UPDATE (R95) -/

/-- The capacity of PENDING in each mode. -/
theorem State.pendingCap_eq (s : State) : s.pendingCap = if s.emsaMode = .raw then 4096 else 4294967295 := by
  cases h : s.emsaMode <;> simp [State.pendingCap, h, Config.hashInCap, Config.msgCap]

section Update

variable {s : State}

/-- A range beyond BUF. -/
theorem execEmsaUpdate_beyond (h : 65536 < s.emsaSrc.toNat + s.emsaLen.toNat) :
    execEmsaUpdate s = raise .emsaUpdate .bufRange s := by
  simp [execEmsaUpdate, inBuf_of_beyond h]

variable (hr : s.emsaSrc.toNat + s.emsaLen.toNat ≤ 65536)
include hr

/-- More bytes than PENDING can take. -/
theorem execEmsaUpdate_over (h : s.pendingCap < s.pending.length + s.emsaLen.toNat) :
    execEmsaUpdate s = raise .emsaUpdate .capacity s := by
  simp [execEmsaUpdate, inBuf_of_fits hr, h]

/-- No test fails. -/
theorem execEmsaUpdate_within (h : s.pending.length + s.emsaLen.toNat ≤ s.pendingCap) :
    execEmsaUpdate s = withBytes s.emsaSrc.toNat s.emsaLen.toNat
      (fun bs s => done (s.setPending (s.pending ++ bs))) s := by
  simp [execEmsaUpdate, inBuf_of_fits hr, h]

end Update

/-- Settles O39: the tests in R95's order, then the append. -/
theorem updateAppendsToPending : Obligations.UpdateAppendsToPending := by
  intro s
  rw [← s.pendingCap_eq]
  refine ⟨fun hr => ?range,
    fun hr => ⟨fun hc => ?capacity, fun hc => ⟨fun hu => ?unwritten, fun bs hl hb => ?append⟩⟩⟩
  case range => exact raises_of_exec_eq (execEmsaUpdate_beyond hr)
  case capacity => exact raises_of_exec_eq (execEmsaUpdate_over hr hc)
  case unwritten => exact (execEmsaUpdate_within hr hc).trans (withBytes_of_unwritten hu)
  case append =>
    exact ⟨_, (execEmsaUpdate_within hr hc).trans (withBytes_of_holds hl hb),
      emsaSets_setPending_setResult s (s.pending ++ bs) s.emsaResult⟩

/-! ### EMSA.SETID and EMSA.SETNAME (R96, R97) -/

section Load

variable (i : Instr) (cap : Nat) (store : State → List Byte → State) {s : State}

/-- PENDING is not empty. -/
theorem loadStore_busy (h : s.pending ≠ []) : loadStore i cap store s = raise i .illegalState s := by
  simp [loadStore, State.emsaBusy, h]

variable (hp : s.pending = [])
include hp

/-- A range beyond BUF. -/
theorem loadStore_beyond (h : 65536 < s.emsaSrc.toNat + s.emsaLen.toNat) :
    loadStore i cap store s = raise i .bufRange s := by
  simp [loadStore, State.emsaBusy, hp, inBuf_of_beyond h]

variable (hr : s.emsaSrc.toNat + s.emsaLen.toNat ≤ 65536)
include hr

/-- More bytes than the store can take. -/
theorem loadStore_over (h : cap < s.emsaLen.toNat) : loadStore i cap store s = raise i .capacity s := by
  simp [loadStore, State.emsaBusy, hp, inBuf_of_fits hr, h]

/-- No test fails. -/
theorem loadStore_within (h : s.emsaLen.toNat ≤ cap) :
    loadStore i cap store s =
      withBytes s.emsaSrc.toNat s.emsaLen.toNat (fun bs s => done (store s bs)) s := by
  simp [loadStore, State.emsaBusy, hp, inBuf_of_fits hr, h]

end Load

/-- A command that loads a store follows the rule of R96, whatever the store. -/
theorem loadRule_of_exec_eq {i : Instr} {cap : Nat} {store : State → List Byte → State}
    {loaded : List Byte → State → State → Prop} {s : State} (h : exec i s = loadStore i cap store s)
    (hload : ∀ bs, loaded bs s ((store s bs).respond (.status .ok))) : LoadRule i cap loaded s := by
  refine ⟨fun hp => ?busy, fun hp hr => ?range, fun hp hr hc => ?capacity, fun hp hr hc hu => ?unwritten,
    fun hp hr hc bs hl hb => ?load⟩
  case busy => exact raises_of_exec_eq (h.trans (loadStore_busy i cap store hp))
  case range => exact raises_of_exec_eq (h.trans (loadStore_beyond i cap store hp hr))
  case capacity => exact raises_of_exec_eq (h.trans (loadStore_over i cap store hp hr hc))
  case unwritten => exact (h.trans (loadStore_within i cap store hp hr hc)).trans (withBytes_of_unwritten hu)
  case load =>
    exact ⟨_, (h.trans (loadStore_within i cap store hp hr hc)).trans (withBytes_of_holds hl hb), hload bs⟩

/-- Settles O40: both commands load a store of 64 bytes. -/
theorem idAndNameStoresAreLoaded : Obligations.IdAndNameStoresAreLoaded :=
  fun s => ⟨loadRule_of_exec_eq rfl fun bs => storesLoaded_setHashId_setHashName s bs s.hashName,
    loadRule_of_exec_eq rfl fun bs => storesLoaded_setHashId_setHashName s s.hashId bs⟩

/-! ### EMSA.RAWDATA (R98, R99) -/

section Rawdata

variable {s : State}

/-- The digest does not fit (R98). -/
theorem execEmsaRawdata_hashed_beyond (hm : s.emsaMode = .hashed) (h : 65536 < s.emsaDst.toNat + s.hashOutLen) :
    execEmsaRawdata s = raise .emsaRawdata .bufRange s := by
  simp [execEmsaRawdata, hm, rawdataHashed, inBuf_of_beyond h]

/-- The digest fits (R98). -/
theorem execEmsaRawdata_hashed_fits (hm : s.emsaMode = .hashed) (h : s.emsaDst.toNat + s.hashOutLen ≤ 65536) :
    execEmsaRawdata s = writeOut s.emsaDst.toNat (s.hash s.pending) (s.setPending []) := by
  simp [execEmsaRawdata, hm, rawdataHashed, inBuf_of_fits h]

/-- PENDING's bytes do not fit (R99). -/
theorem execEmsaRawdata_raw_beyond (hm : s.emsaMode = .raw) (h : 65536 < s.emsaDst.toNat + s.pending.length) :
    execEmsaRawdata s = raise .emsaRawdata .bufRange s := by
  simp [execEmsaRawdata, hm, rawdataRaw, inBuf_of_beyond h]

/-- PENDING's bytes fit: they are written, unless EMSA_EXPECT asks for another number of them (R99). -/
theorem execEmsaRawdata_raw_fits (hm : s.emsaMode = .raw) (h : s.emsaDst.toNat + s.pending.length ≤ 65536) :
    execEmsaRawdata s = if s.emsaExpect ≠ 0 ∧ s.pending.length ≠ s.emsaExpect.toNat
      then raise .emsaRawdata .invalidArgument (s.setPending [])
      else writeOut s.emsaDst.toNat s.pending (s.setPending []) := by
  simp only [execEmsaRawdata, hm, rawdataRaw, inBuf_of_fits h, Bool.not_true, Bool.false_eq_true, if_false]

end Rawdata

/-- Settles O41: the range check, then the digest is written. -/
theorem rawdataInHashedModeWritesTheDigest : Obligations.RawdataInHashedModeWritesTheDigest := by
  intro s hm
  refine ⟨fun hr => ?range, fun hr => ?digest⟩
  case range => exact raises_of_exec_eq (execEmsaRawdata_hashed_beyond hm hr)
  case digest =>
    have hlen := s.hash_length s.pending
    obtain ⟨t, ht, hw⟩ := wroteOut_of_exec_eq (i := .emsaRawdata) (execEmsaRawdata_hashed_fits hm hr) (hlen ▸ hr)
    exact ⟨t, ht, hlen, hw⟩

/-- Settles O42: the two tests of R99, then PENDING is written. -/
theorem rawdataInRawModeWritesTheBuffer : Obligations.RawdataInRawModeWritesTheBuffer := by
  intro s hm
  refine ⟨fun hr => ?range, fun hr => ⟨fun he hn => ?unexpected, fun he => ?write⟩⟩
  case range => exact raises_of_exec_eq (execEmsaRawdata_raw_beyond hm hr)
  case unexpected =>
    exact raisesAndEmpties_of_exec_eq ((execEmsaRawdata_raw_fits hm hr).trans (if_pos ⟨he, hn⟩))
  case write =>
    have hexpected : ¬(s.emsaExpect ≠ 0 ∧ s.pending.length ≠ s.emsaExpect.toNat) :=
      fun h => he.elim h.1 h.2
    exact wroteOut_of_exec_eq (i := .emsaRawdata) ((execEmsaRawdata_raw_fits hm hr).trans (if_neg hexpected)) hr

/-! ### EMSA.NAME (R107) -/

/-- The three identifiers, written out. -/
theorem State.schemeName_eq (s : State) : s.schemeName =
    if s.emsaMode = .hashed then [0x45, 0x4D, 0x53, 0x41, 0x33, 0x28] ++ s.hashName ++ [0x29]
    else if s.hashName = [] then [0x45, 0x4D, 0x53, 0x41, 0x33, 0x28, 0x52, 0x61, 0x77, 0x29]
    else [0x45, 0x4D, 0x53, 0x41, 0x33, 0x28, 0x52, 0x61, 0x77, 0x2C] ++ s.hashName ++ [0x29] := by
  cases hm : s.emsaMode with
  | hashed => simp [State.schemeName, hm, nameOpen]
  | raw => simp [State.schemeName, hm, nameOpen, nameRaw]

/-- The identifier does not fit. -/
theorem execEmsaName_beyond {s : State} (h : 65536 < s.emsaDst.toNat + s.schemeName.length) :
    execEmsaName s = raise .emsaName .bufRange s := by
  simp [execEmsaName, inBuf_of_beyond h]

/-- The identifier fits. -/
theorem execEmsaName_fits {s : State} (h : s.emsaDst.toNat + s.schemeName.length ≤ 65536) :
    execEmsaName s = writeOut s.emsaDst.toNat s.schemeName s := by
  simp [execEmsaName, inBuf_of_fits h]

/-- Settles O45: the range check, then the identifier is written. -/
theorem nameWritesTheSchemeIdentifier : Obligations.NameWritesTheSchemeIdentifier := by
  intro s name hname
  obtain rfl : name = s.schemeName := hname.trans s.schemeName_eq.symm
  exact ⟨fun hr => raises_of_exec_eq (execEmsaName_beyond hr),
    fun hr => wroteOut_of_exec_eq (i := .emsaName) (pending := s.pending) (execEmsaName_fits hr) hr⟩

/-! ### EMSA.ENCODE (R101) -/

section Encode

variable {s : State} {digest : List Byte}

/-- The digest or the block does not lie within BUF. -/
theorem execEmsaEncode_beyond (h : 65536 < s.emsaSrc.toNat + s.emsaLen.toNat ∨
    65536 < s.emsaDst.toNat + outputLen s.emsaBits.toNat) : execEmsaEncode s = raise .emsaEncode .bufRange s := by
  rcases h with h | h <;> simp [execEmsaEncode, inBuf_of_beyond h]

variable (hr : s.emsaSrc.toNat + s.emsaLen.toNat ≤ 65536)
  (hd : s.emsaDst.toNat + outputLen s.emsaBits.toNat ≤ 65536)
include hr hd

/-- Both do, and a byte of the digest is unwritten. -/
theorem execEmsaEncode_unwritten (h : SomeUnwritten s s.emsaSrc.toNat s.emsaLen.toNat) :
    execEmsaEncode s = .fault .unwrittenMemory := by
  simp [execEmsaEncode, inBuf_of_fits hr, inBuf_of_fits hd, withBytes_of_unwritten h]

variable (hl : digest.length = s.emsaLen.toNat) (hb : Holds s s.emsaSrc.toNat digest)
include hl hb

/-- No block can be built. -/
theorem execEmsaEncode_failure (h : outputLen s.emsaBits.toNat < s.hashId.length + digest.length + 11) :
    execEmsaEncode s = raise .emsaEncode .encodingFailure (s.setPending []) := by
  simp [execEmsaEncode, inBuf_of_fits hr, inBuf_of_fits hd, withBytes_of_holds hl hb, emsaEncode_eq_none.mpr h]

/-- A block can be built. -/
theorem execEmsaEncode_block {block : List Byte} (h : emsaEncode s.hashId digest s.emsaBits.toNat = some block) :
    execEmsaEncode s = writeOut s.emsaDst.toNat block (s.setPending []) := by
  simp [execEmsaEncode, inBuf_of_fits hr, inBuf_of_fits hd, withBytes_of_holds hl hb, h]

/-- The block is written, of the bytes read before (R101). -/
theorem execEmsaEncode_wroteOut {block : List Byte} (h : emsaEncode s.hashId digest s.emsaBits.toNat = some block) :
    ∃ t, exec .emsaEncode s = .next t ∧ WroteOut s.emsaDst.toNat block [] s t :=
  wroteOut_of_exec_eq (i := .emsaEncode) (execEmsaEncode_block hr hd hl hb h) (emsaEncode_length h ▸ hd)

end Encode

/-- Settles O43: the tests in R101's order, then the block is written. -/
theorem encodeWritesTheBlock : Obligations.EncodeWritesTheBlock := by
  intro s
  refine ⟨fun hr => ?range, fun hr hd => ⟨fun hu => ?unwritten, fun digest hl hb => ?encode⟩⟩
  case range => exact raises_of_exec_eq (execEmsaEncode_beyond hr)
  case unwritten => exact execEmsaEncode_unwritten hr hd hu
  case encode =>
    rw [← hl]
    exact ⟨fun h => raisesAndEmpties_of_exec_eq (execEmsaEncode_failure hr hd hl hb h),
      fun h => execEmsaEncode_wroteOut hr hd hl hb (emsaEncode_eq_blockOf h)⟩

/-! ### EMSA.VERIFY (R104) -/

section Verify

variable {s : State}

/-- The coded block or the raw bytes do not lie within BUF. -/
theorem execEmsaVerify_beyond (h : 65536 < s.emsaAux.toNat + s.emsaAuxLen.toNat ∨
    65536 < s.emsaSrc.toNat + s.emsaLen.toNat) : execEmsaVerify s = raise .emsaVerify .bufRange s := by
  rcases h with h | h <;> simp [execEmsaVerify, inBuf_of_beyond h]

variable (ha : s.emsaAux.toNat + s.emsaAuxLen.toNat ≤ 65536) (hr : s.emsaSrc.toNat + s.emsaLen.toNat ≤ 65536)
include ha hr

/-- Both do, and a byte of either is unwritten. -/
theorem execEmsaVerify_unwritten (h : SomeUnwritten s s.emsaAux.toNat s.emsaAuxLen.toNat ∨
    SomeUnwritten s s.emsaSrc.toNat s.emsaLen.toNat) : execEmsaVerify s = .fault .unwrittenMemory := by
  simp only [execEmsaVerify, inBuf_of_fits ha, inBuf_of_fits hr, Bool.not_true, Bool.false_eq_true, if_false]
  rcases someUnwritten_or_holds s s.emsaAux.toNat s.emsaAuxLen.toNat with hcoded | ⟨coded, hcl, hc⟩
  · exact withBytes_of_unwritten hcoded
  · have hraw := h.resolve_left (not_someUnwritten_of_holds hcl hc)
    exact (withBytes_of_holds hcl hc).trans (withBytes_of_unwritten hraw)

/-- Both are held: the comparison's value goes to EMSA_RESULT. -/
theorem execEmsaVerify_of_holds {coded raw : List Byte} (hcl : coded.length = s.emsaAuxLen.toNat)
    (hc : Holds s s.emsaAux.toNat coded) (hrl : raw.length = s.emsaLen.toNat) (hb : Holds s s.emsaSrc.toNat raw) :
    execEmsaVerify s =
      done ((s.setPending []).setResult (verifyValue s.hashId raw coded s.emsaBits.toNat)) := by
  simp [execEmsaVerify, inBuf_of_fits ha, inBuf_of_fits hr, withBytes_of_holds hcl hc, withBytes_of_holds hrl hb]

/-- The coded range holds the block of the raw bytes: it is accepted. -/
theorem execEmsaVerify_accepts {raw block : List Byte} (hbl : block.length = s.emsaAuxLen.toNat)
    (hc : Holds s s.emsaAux.toNat block) (hrl : raw.length = s.emsaLen.toNat) (hb : Holds s s.emsaSrc.toNat raw)
    (henc : emsaEncode s.hashId raw s.emsaBits.toNat = some block) :
    ∃ t, exec .emsaVerify s = .next t ∧ Responds .ok s t ∧ t.emsaResult = true :=
  ⟨_, execEmsaVerify_of_holds ha hr hbl hc hrl hb, rfl, (verifyValue_of_block henc block).trans (decide_eq_true rfl)⟩

end Verify

/-- Settles O44: the tests in R104's order, then the value of the comparison. -/
theorem verifyComparesWithTheRebuiltBlock : Obligations.VerifyComparesWithTheRebuiltBlock := by
  intro s
  refine ⟨fun hr => ?range, fun ha hr => ⟨fun hu => ?unwritten, fun coded raw hcl hc hrl hb => ?compare⟩⟩
  case range => exact raises_of_exec_eq (execEmsaVerify_beyond hr)
  case unwritten => exact execEmsaVerify_unwritten ha hr hu
  case compare =>
    exact ⟨_, _, execEmsaVerify_of_holds ha hr hcl hc hrl hb, emsaSets_setPending_setResult s [] _, verifyValue_eq_true⟩

/-- Settles O46: EMSA.VERIFY's value is equality with the block, and no block of 64 bytes holds a digest of 64. -/
theorem verifyAcceptsTheBlockAndRejectsEveryFlip : Obligations.VerifyAcceptsTheBlockAndRejectsEveryFlip := by
  refine ⟨fun s raw block hrl hb hr ha henc hbl => ⟨fun hc => ?accepts, fun i b hi hne hc => ?rejects⟩,
    fun s digest hl hb hr hd hbits hlen => ?tooSmall⟩
  case accepts =>
    obtain ⟨t, ht, -, hresult⟩ := execEmsaVerify_accepts ha hr hbl hc hrl hb henc
    exact ⟨t, ht, hresult⟩
  case rejects =>
    have hflip : block.set i b ≠ block := fun h => hne (by rw [← h, List.getElem?_set_self hi])
    exact ⟨_, execEmsaVerify_of_holds ha hr ((List.length_set ..).trans hbl) hc hrl hb,
      (verifyValue_of_block henc _).trans (decide_eq_false hflip)⟩
  case tooSmall =>
    have hout : outputLen s.emsaBits.toNat = 64 := by rw [hbits]; rfl
    have hdigest : digest.length = 64 := by rw [hl, hlen]; rfl
    exact raisesAndEmpties_of_exec_eq (execEmsaEncode_failure hr (hout ▸ hd) hl hb (by omega))

/-! ### EMSA.ENCODE, then EMSA.VERIFY (R106) -/

/-- An EMSA.ENCODE that ends OK has read its digest and written the block of it. -/
theorem emsaEncode_of_ok {s t : State} (ht : exec .emsaEncode s = .next t) (hok : Responds .ok s t) :
    s.emsaSrc.toNat + s.emsaLen.toNat ≤ 65536 ∧ s.emsaDst.toNat + outputLen s.emsaBits.toNat ≤ 65536 ∧
      ∃ digest block, digest.length = s.emsaLen.toNat ∧ Holds s s.emsaSrc.toNat digest ∧
        emsaEncode s.hashId digest s.emsaBits.toNat = some block ∧ WroteOut s.emsaDst.toNat block [] s t := by
  have not_raised {c : Status} {pending : List Byte} (hne : c ≠ .ok)
      (h : exec .emsaEncode s = raise .emsaEncode c (s.setPending pending)) : False := by
    obtain rfl := raise_eq_next.mp (h.symm.trans ht)
    exact hne (responds_unique (responds_respond rfl) hok)
  by_cases hrange : 65536 < s.emsaSrc.toNat + s.emsaLen.toNat ∨ 65536 < s.emsaDst.toNat + outputLen s.emsaBits.toNat
  · exact (not_raised (by decide) (execEmsaEncode_beyond hrange)).elim
  · simp only [not_or, not_lt] at hrange
    obtain ⟨hr, hd⟩ := hrange
    refine ⟨hr, hd, ?_⟩
    rcases someUnwritten_or_holds s s.emsaSrc.toNat s.emsaLen.toNat with hu | ⟨digest, hl, hb⟩
    · cases ht.symm.trans (execEmsaEncode_unwritten hr hd hu)
    · cases henc : emsaEncode s.hashId digest s.emsaBits.toNat with
      | none => exact (not_raised (by decide) (execEmsaEncode_failure hr hd hl hb (emsaEncode_eq_none.mp henc))).elim
      | some block =>
        obtain ⟨u, hu, hw⟩ := execEmsaEncode_wroteOut hr hd hl hb henc
        cases ht.symm.trans hu
        exact ⟨digest, block, hl, hb, henc, hw⟩

/-- Settles O47: the state EMSA.ENCODE leaves holds the block and still the digest, so EMSA.VERIFY accepts. -/
theorem encodeThenVerifyAccepts : Obligations.EncodeThenVerifyAccepts := by
  intro s t ht hok haux hauxLen hapart
  obtain ⟨hr, hd, digest, block, hl, hb, henc, hw⟩ := emsaEncode_of_ok ht hok
  obtain ⟨-, hst, -, -, -, -, -, ⟨-, -, hsrc', hlen', -, hbits', haux', hauxLen'⟩, -, ⟨hid', -⟩, -⟩ := hw
  have hbl : block.length = s.emsaAuxLen.toNat := (emsaEncode_length henc).trans hauxLen.symm
  have hdigest : Holds t s.emsaSrc.toNat digest :=
    holds_of_stores hst hb (by rw [hl, hbl, hauxLen]; exact hapart)
  have accepts := execEmsaVerify_accepts (s := t) (raw := digest) (block := block)
  rw [haux', hauxLen', hsrc', hlen', hid', hbits', haux] at accepts
  exact accepts (hauxLen ▸ hd) hr hbl hst.1 hl hdigest henc

end Sys2Proof.Machine
end

section
/-! SUPPORT. The field that GF.INIT constructs (42_gf_field.md): the laws of one reduction (R123, R124), GF.INIT (R125), the
rule of a field command with one source and the primitive lookups (R126 to R128), and the arithmetic of the powers of the
generator, from which multiplication gets its laws (R121, R130). -/

namespace Sys2Proof.Machine

open Sys2Proof.Safety

/-! ### The laws of one reduction (R124) -/

section Reduce

variable (f : Field)

/-- ord is positive for a legal degree. -/
theorem Field.ord_pos {f : Field} (hm : 1 ≤ f.m) : 0 < f.ord := by
  have h : 1 < f.q := Nat.one_lt_two_pow (by omega)
  have := f.ord_succ
  omega

/-- q is ord + 1, as integers. -/
theorem Field.q_eq : (f.q : Int) = f.ord + 1 := by exact_mod_cast f.ord_succ.symm

/-- Twice 2^(M - 1) is ord + 1. -/
theorem Field.two_mul_half {f : Field} (hm : 1 ≤ f.m) : (2 : Int) * 2 ^ (f.m - 1) = f.ord + 1 := by
  rw [← f.two_pow_eq, ← pow_succ', Nat.sub_add_cancel hm]

/-- Folding takes off the high digit times ord (R124 (a)). -/
theorem sub_foldOnce (d : Int) : d - foldOnce f d = d / 2 ^ f.m * f.ord := by
  have hd := Int.emod_add_mul_ediv d (2 ^ f.m)
  rw [foldOnce]
  rw [f.two_pow_eq] at hd ⊢
  linarith

/-- Folding keeps the residue modulo ord (R124 (a)). -/
theorem foldOnce_modEq (d : Int) : foldOnce f d ≡ d [ZMOD f.ord] :=
  Int.modEq_iff_dvd.mpr ⟨d / 2 ^ f.m, by rw [sub_foldOnce, mul_comm]⟩

/-- Only 0 and -ord fold to 0, and only ord and 2·ord to ord (R124 (e)). -/
theorem foldOnce_ends (hm : 1 ≤ f.m) {d : Int} (h0 : -(f.ord : Int) ≤ d) (h1 : d ≤ 2 * f.ord) :
    (foldOnce f d = 0 ↔ d = 0 ∨ d = -(f.ord : Int)) ∧ (foldOnce f d = f.ord ↔ d = f.ord ∨ d = 2 * f.ord) := by
  have hpos := Field.ord_pos hm
  rcases lt_or_ge d 0 with hneg | hnn
  · rw [foldOnce_of_neg f h0 hneg]; omega
  · rcases le_or_gt d f.ord with hle | hgt
    · rw [foldOnce_of_le_ord f hnn hle]; omega
    · rw [foldOnce_of_ord_lt f hgt h1]; omega

/-- From q on folding decreases (R124 (f)). -/
theorem foldOnce_lt (hm : 1 ≤ f.m) {d : Int} (h : (f.q : Int) ≤ d) : foldOnce f d < d := by
  have hord : (0 : Int) < f.ord := by exact_mod_cast Field.ord_pos hm
  rw [f.q_eq, ← f.two_pow_eq] at h
  have hhi : 1 ≤ d / 2 ^ f.m := (Int.le_ediv_iff_mul_le (by positivity)).mpr (by omega)
  have hdrop : 0 < d - foldOnce f d := by rw [sub_foldOnce]; exact mul_pos hhi hord
  omega

/-- A logarithm times 2^(M - 1) folds to a logarithm: half of it, and 2^(M - 1) more when it is odd (R175). -/
theorem foldOnce_mul_half {f : Field} (hm : 1 ≤ f.m) {a : Nat} (ha : a < f.ord) :
    0 ≤ foldOnce f (a * 2 ^ (f.m - 1)) ∧ foldOnce f (a * 2 ^ (f.m - 1)) ≤ f.ord := by
  have hhalf := Field.two_mul_half hm
  generalize (2 : Int) ^ (f.m - 1) = half at hhalf ⊢
  obtain ⟨k, rfl | rfl⟩ := Nat.even_or_odd' a
  case inl =>
    rw [foldOnce_of_digits f (hi := k) (lo := 0) (by rw [← hhalf]; push_cast; ring) le_rfl (by omega)]
    omega
  case inr =>
    rw [foldOnce_of_digits f (hi := k) (lo := half) (by rw [← hhalf]; push_cast; ring) (by omega) (by omega)]
    omega

end Reduce

/-- Settles O28: the bitwise form is one folding, and the laws are the laws of folding. -/
theorem lawsOfReduce : Obligations.LawsOfReduce := by
  refine ⟨fun f hm hm16 d _ _ => ?laws, fun f hm => ?examples⟩
  case laws =>
    have hq := f.q_eq
    rw [Field.reduce_eq_foldOnce (by omega)]
    refine ⟨sub_foldOnce f d, ⟨_, (sub_foldOnce f d).trans (mul_comm _ _)⟩, foldOnce_of_le_ord f, fun h0 h1 => ?sum,
      fun h0 h1 => ?difference, fun h0 h1 => ?range, foldOnce_lt f hm⟩
    case sum => rw [foldOnce_of_ord_lt f (by omega) h1]; omega
    case difference => rw [foldOnce_of_neg f h0 (by omega)]; omega
    case range =>
      obtain ⟨hlo, hhi⟩ := foldOnce_range f h0 h1
      exact ⟨hlo, hhi, foldOnce_ends f hm h0 h1⟩
  case examples =>
    have hord : (f.ord : Int) = 15 := by simp [Field.ord, Field.q, hm]
    have hpos := foldOnce_of_digits f (d := 31) (hi := 1) (lo := 15) (by omega) (by omega) hord.ge
    have hneg := foldOnce_of_digits f (d := -16) (hi := -1) (lo := 0) (by omega) le_rfl (by omega)
    rw [← Field.reduce_eq_foldOnce (by omega)] at hpos hneg
    rw [hpos, hneg]
    exact ⟨rfl, rfl, rfl⟩

/-! ### GF.INIT (R125) -/

/-- A legal degree has an entry in the provider's tables (R31 (a)). -/
theorem tablesFor_legal (p : Params) {m : Nat} (h1 : 1 ≤ m) (h16 : m ≤ 16) :
    p.tables.toList[m - 1]? = some (tablesFor p m) := by
  have hlen : m - 1 < p.tables.toList.length := by simp; omega
  rw [tablesFor, if_neg (by omega), List.getElem?_eq_getElem hlen, Option.getD_some]

section Init

variable {s : State} (hf : s.frozen = false)
include hf

/-- While FROZEN is 0 an illegal degree is refused. -/
theorem execGfInit_illegal (h : s.gfM.toNat < 1 ∨ 16 < s.gfM.toNat) :
    execGfInit s = raise .gfInit .badConfig s := by
  have hd : legalDegree s.gfM.toNat = false := by simp [legalDegree]; omega
  simp [execGfInit, hf, hd]

/-- While FROZEN is 0 a legal degree is taken. -/
theorem execGfInit_legal (h1 : 1 ≤ s.gfM.toNat) (h16 : s.gfM.toNat ≤ 16) : execGfInit s = done s.freeze := by
  have hd : legalDegree s.gfM.toNat = true := by simp [legalDegree, h1, h16]
  simp [execGfInit, hf, hd]

end Init

/-- Settles O19: the tests in order, then the state with FROZEN set. -/
theorem initConstructsTheFieldInstance : Obligations.InitConstructsTheFieldInstance := by
  refine fun s => ⟨fun hf => raises_of_exec_eq (if_pos hf), fun hf h => raises_of_exec_eq (execGfInit_illegal hf h),
    fun hf h1 h16 => ?_⟩
  obtain ⟨hq, hord⟩ := State.gfQ_gfOrd_of_frozen (s := s.freeze.respond (.status .ok)) rfl h16
  exact ⟨_, execGfInit_legal hf h1 h16, rfl, rfl, rfl, ⟨tablesFor_legal s.params h1 h16, rfl⟩, hq, hord, ⟨rfl, rfl⟩,
    fun _ => rfl, ⟨rfl, rfl⟩, ⟨⟨rfl, rfl, rfl, rfl, rfl, rfl, rfl, rfl⟩, ⟨rfl, rfl⟩, rfl, rfl, rfl⟩, rfl, rfl, rfl⟩

/-! ### A field command with one source (R129, R206 (a)) -/

section Unary

variable {i : Instr} {rd rs1 : Reg} {op : Field → Word → Except Fault Int} {s : State}

/-- A defined value goes to rd and the command ends OK. -/
theorem fieldUnary_writesOnly {v : Int} (hf : s.frozen = true) (hv : op s.field s.x[rs1.val] = .ok v) :
    ∃ t, fieldUnary i rd rs1 op s = .next t ∧ WritesOnly rd (BitVec.ofInt 32 v) s t := by
  refine ⟨_, ?_, writesOnly_writeReg s rd _⟩
  rw [fieldUnary, if_pos hf, State.readReg, hv]
  exact writeResult_ok rd v s

/-- An undefined value ends the run. -/
theorem fieldUnary_fault {e : Fault} (hf : s.frozen = true) (hv : op s.field s.x[rs1.val] = .error e) :
    fieldUnary i rd rs1 op s = .fault e := by
  rw [fieldUnary, if_pos hf, State.readReg, hv]
  exact writeResult_error rd e s

end Unary

/-- A command that computes `op` of its source obeys the rule, if `op` faults on the bad operands and gives the value
on the others. -/
theorem unaryRule_of_op {ready : State → Prop} {mk : Reg → Reg → Instr} {bad : Field → Word → Option Fault}
    {value : Field → Word → Int} (op : Field → Word → Except Fault Int)
    (hexec : ∀ rd rs1 s, exec (mk rd rs1) s = fieldUnary (mk rd rs1) rd rs1 op s)
    (hready : ∀ s, ready s → s.frozen = true)
    (hbad : ∀ f v e, bad f v = some e → op f v = .error e)
    (hgood : ∀ s v, ready s → bad s.field v = none → op s.field v = .ok (value s.field v)) :
    UnaryRule ready mk bad value := by
  intro rd rs1 s
  refine ⟨fun hf => raises_of_exec_eq ?frozen, fun hf _ e he => ?fault, fun hs _ hb => ?value⟩
  case frozen => rw [hexec, fieldUnary, if_neg (ne_true_of_eq_false hf)]
  case fault => rw [hexec]; exact fieldUnary_fault hf (hbad _ _ _ he)
  case value => rw [hexec]; exact fieldUnary_writesOnly (hready s hs) (hgood s _ hs hb)

/-- An undefined link ends the chain of checks and lookups. -/
theorem except_bind_error {α β : Type} {x : Except Fault α} {k : α → Except Fault β} {e : Fault} (h : x = .error e) :
    (x >>= k) = .error e := by
  subst h
  rfl

section Checks

variable {f : Field} {v : Word} {e : Fault}

/-- The check of an n operand names its undefined case (R129). -/
theorem Field.elemN_of_badN (h : badN f v = some e) : f.elemN v = .error e := by
  unfold badN at h
  unfold Field.elemN
  split at h
  · cases h
    rw [if_pos ‹_›]
  · split at h <;> cases h
    subst v
    rw [if_neg ‹_›]
    rfl

/-- The check of an r operand names its undefined case (R129). -/
theorem Field.logR_of_badR (h : badR f v = some e) : f.logR v = .error e := by
  unfold badR at h
  unfold Field.logR
  split at h <;> cases h
  exact if_pos ‹_›

end Checks

/-! ### GF.LOG, GF.EXP and GF.RED (R126, R127, R128) -/

section Lookups

variable {f : Field} (hv : TablesValid f) {v : Word}
include hv

/-- GF.LOG's value on a non-zero element (R126). -/
theorem Field.logValue_eq (hb : badN f v = none) : f.logValue v = .ok (logOf f v) := by
  obtain ⟨hz, h0⟩ := badN_eq_none.mp hb
  have hq := lt_q_of_badZ hz
  exact except_bind_ok.mpr
    ⟨_, Field.elemN_eq_ok.mpr ⟨rfl, BitVec.toNat_pos_of_ne_zero h0, hq⟩, Field.log_toNat hv hq h0⟩

/-- GF.EXP's value on a logarithm (R127). -/
theorem Field.expValue_eq (hb : badR f v = none) : f.expValue v = .ok (expOf f v.toNat) :=
  have hle := le_ord_of_badR hb
  except_bind_ok.mpr ⟨_, Field.logR_eq_ok.mpr ⟨rfl, hle⟩, Field.exp_eq_entry hv hle⟩

end Lookups

/-- Settles O20: each command is the check of its operand and one lookup, or one folding without a check. -/
theorem primitiveLookups : Obligations.PrimitiveLookups := by
  refine ⟨?log, ?exp, ?red⟩
  case log =>
    exact unaryRule_of_op Field.logValue (fun _ _ _ => rfl) (fun _ hs => hs.1)
      (fun _ _ _ he => except_bind_error (Field.elemN_of_badN he)) fun _ _ ⟨_, _, _, hv⟩ => Field.logValue_eq hv
  case exp =>
    exact unaryRule_of_op Field.expValue (fun _ _ _ => rfl) (fun _ hs => hs.1)
      (fun _ _ _ he => except_bind_error (Field.logR_of_badR he)) fun _ _ ⟨_, _, _, hv⟩ => Field.expValue_eq hv
  case red =>
    exact unaryRule_of_op Field.redValue (fun _ _ _ => rfl) (fun _ hs => hs.1) (fun _ _ _ he => nomatch he)
      fun _ v ⟨_, _, hm16⟩ _ => congrArg Except.ok (Field.reduce_eq_foldOnce (by omega) v.toInt)

/-! ### The powers of the generator (R121) -/

/-- The element α^d, read from the exp-table at the residue of d. -/
def power (f : Field) (d : Int) : Nat := expEntry f (d % f.ord).toNat

/-- Exponents with the same residue give the same power. -/
theorem power_congr {f : Field} {d d' : Int} (h : d ≡ d' [ZMOD f.ord]) : power f d = power f d' := by
  rw [power, h, power]

section Powers

variable {f : Field} (hm : 1 ≤ f.m)
include hm

/-- The residue of an exponent is an index of the exp-table below ord. -/
theorem residue_lt (d : Int) : (d % f.ord).toNat < f.ord := by
  have hpos : (0 : Int) < f.ord := by exact_mod_cast Field.ord_pos hm
  have := Int.emod_lt_of_pos d hpos
  omega

variable (hv : TablesValid f)
include hv

/-- A power is a non-zero element (T2). -/
theorem power_range (d : Int) : 1 ≤ power f d ∧ power f d < f.q := hv.t2 _ (residue_lt hm d)

/-- The logarithm of a power is its exponent, modulo ord (T3). -/
theorem logEntry_power (d : Int) : (logEntry f (power f d) : Int) ≡ d [ZMOD f.ord] := by
  have hpos : (0 : Int) < f.ord := by exact_mod_cast Field.ord_pos hm
  rw [power, hv.t3Log _ (residue_lt hm d), Int.toNat_of_nonneg (Int.emod_nonneg _ hpos.ne')]
  exact Int.mod_modEq d f.ord

omit hm in
/-- An element is the power of its logarithm (T1, T3). -/
theorem power_logEntry {x : Nat} (h1 : 1 ≤ x) (hq : x < f.q) : power f (logEntry f x) = x := by
  have hlt : (logEntry f x : Int) < f.ord := by exact_mod_cast hv.t1 x h1 hq
  rw [power, Int.emod_eq_of_lt (Int.natCast_nonneg _) hlt, Int.toNat_natCast, hv.t3Exp x h1 hq]

omit hm in
/-- An element stands in the exp-table below ord at its logarithm only (T3). -/
theorem expEntry_eq_iff {x i : Nat} (h1 : 1 ≤ x) (hq : x < f.q) (hi : i < f.ord) :
    expEntry f i = x ↔ i = logEntry f x := by
  constructor
  · rintro rfl
    exact (hv.t3Log i hi).symm
  · rintro rfl
    exact hv.t3Exp x h1 hq

/-- The logarithm of 1 is 0 (T3, T4). -/
theorem logEntry_one : logEntry f 1 = 0 := by
  have h := hv.t3Log 0 (Field.ord_pos hm)
  rwa [hv.t4] at h

omit hm in
/-- A lookup in the exp-table gives the power, at the index ord too (T4, T5). -/
theorem Field.exp_eq_power {i : Int} (h0 : 0 ≤ i) (h1 : i ≤ f.ord) : f.exp i = .ok (power f i) := by
  lift i to Nat using h0
  have hle : i ≤ f.ord := by exact_mod_cast h1
  rw [Field.exp_eq_entry hv hle, power, ← Int.natCast_emod, Int.toNat_natCast]
  rcases hle.lt_or_eq with hlt | rfl
  · rw [Nat.mod_eq_of_lt hlt]
  · rw [Nat.mod_self, hv.t4, hv.t5]

/-- A lookup at an exponent folded once gives the power. -/
theorem Field.exp_reduce_eq_power (hm16 : f.m ≤ 16) {d : Int} (h0 : 0 ≤ foldOnce f d) (h1 : foldOnce f d ≤ f.ord) :
    f.exp (f.reduce d) = .ok (power f d) := by
  rw [Field.reduce_eq_foldOnce (by omega), Field.exp_eq_power hv h0 h1, power_congr (foldOnce_modEq f d)]

end Powers

/-! ### Multiplication, inverse and square root of elements (R141, R171, R174, R176) -/

/-- The product of two elements: 0, or the power of the sum of the logarithms. -/
def product (f : Field) (x y : Nat) : Nat :=
  if x = 0 ∨ y = 0 then 0 else power f (logEntry f x + logEntry f y)

/-- The square root of an element: 0, or the power of the logarithm times 2^(M - 1) (R175). -/
def root (f : Field) (x : Nat) : Nat := if x = 0 then 0 else power f (logEntry f x * 2 ^ (f.m - 1))

section Products

variable (f : Field)

/-- A product with zero is zero. -/
@[simp] theorem product_zero (x : Nat) : product f x 0 = 0 := if_pos (.inr rfl)

/-- A product of zero is zero. -/
@[simp] theorem zero_product (x : Nat) : product f 0 x = 0 := if_pos (.inl rfl)

variable {f} {x y z : Nat}

/-- A product of non-zero elements adds the logarithms. -/
theorem product_of_ne_zero (hx : x ≠ 0) (hy : y ≠ 0) : product f x y = power f (logEntry f x + logEntry f y) :=
  if_neg (by simp [hx, hy])

/-- The product does not depend on the order. -/
theorem product_comm (x y : Nat) : product f x y = product f y x := by
  simp only [product, or_comm, add_comm]

variable (hm : 1 ≤ f.m) (hv : TablesValid f)
include hm hv

/-- A product of a power adds its exponent. -/
theorem power_product (d : Int) (hy : y ≠ 0) : product f (power f d) y = power f (d + logEntry f y) := by
  rw [product_of_ne_zero (Nat.pos_iff_ne_zero.mp (power_range hm hv d).1) hy]
  exact power_congr ((logEntry_power hm hv d).add_right _)

/-- A product of elements is an element. -/
theorem product_lt (x y : Nat) : product f x y < f.q := by
  unfold product
  split
  · exact Nat.two_pow_pos f.m
  · exact (power_range hm hv _).2

/-- The product is associative. -/
theorem product_assoc (x y z : Nat) : product f (product f x y) z = product f x (product f y z) := by
  rcases eq_or_ne x 0 with rfl | hx
  · simp
  rcases eq_or_ne y 0 with rfl | hy
  · simp
  rcases eq_or_ne z 0 with rfl | hz
  · simp
  rw [product_of_ne_zero hx hy, product_of_ne_zero hy hz, power_product hm hv _ hz, product_comm x,
    power_product hm hv _ hx, add_comm _ (logEntry f x : Int), add_assoc]

/-- 1 is the unit. -/
theorem product_one (hq : x < f.q) : product f x 1 = x := by
  rcases eq_or_ne x 0 with rfl | hx
  · simp
  · rw [product_of_ne_zero hx one_ne_zero, logEntry_one hm hv, Nat.cast_zero, add_zero,
      power_logEntry hv (Nat.pos_of_ne_zero hx) hq]

/-- The power of the negated logarithm is the inverse. -/
theorem product_inverse (hx : x ≠ 0) : product f x (power f (-logEntry f x)) = 1 := by
  rw [product_comm, power_product hm hv _ hx, neg_add_cancel, power, Int.zero_emod, Int.toNat_zero, hv.t4]

/-- The root of a square is the element: 2·2^(M - 1) = ord + 1 is 1 modulo ord (R175). -/
theorem root_product_self (hq : x < f.q) : root f (product f x x) = x := by
  rcases eq_or_ne x 0 with rfl | hx
  · simp [root]
  have hpow := Field.two_mul_half hm
  have hexp : (logEntry f x + logEntry f x : Int) * 2 ^ (f.m - 1) ≡ logEntry f x [ZMOD f.ord] :=
    Int.modEq_iff_dvd.mpr ⟨-logEntry f x, by linear_combination (-logEntry f x : Int) * hpow⟩
  rw [product_of_ne_zero hx hx, root, if_neg (Nat.pos_iff_ne_zero.mp (power_range hm hv _).1),
    power_congr (((logEntry_power hm hv _).mul_right _).trans hexp), power_logEntry hv (Nat.pos_of_ne_zero hx) hq]

end Products

section FieldValues

variable {f : Field} {v w : Word} (hv : TablesValid f)
include hv

/-- GF.INV's value is the power of the negated logarithm (R176). -/
theorem Field.invValue_eq_power (hx : v.toNat < f.q) (h0 : v ≠ 0) :
    f.invValue v = .ok (power f (-logEntry f v.toNat)) := by
  have h1 := BitVec.toNat_pos_of_ne_zero h0
  have hlx := hv.t1 v.toNat h1 hx
  refine except_bind_ok.mpr ⟨_, Field.elemN_eq_ok.mpr ⟨rfl, h1, hx⟩, except_bind_ok.mpr
    ⟨_, Field.log_eq_entry hv h1 hx, ?_⟩⟩
  have hindex : (f.ord : Int) - logEntry f v.toNat ≡ -logEntry f v.toNat [ZMOD f.ord] := by
    simp [Int.ModEq, sub_eq_add_neg]
  rw [← power_congr hindex]
  exact Field.exp_eq_power hv (by omega) (by omega)

variable (hm : 1 ≤ f.m) (hm16 : f.m ≤ 16)
include hm hm16

/-- GF.MUL's value is the product (R141). -/
theorem Field.mulValue_eq_product (hx : v.toNat < f.q) (hy : w.toNat < f.q) :
    f.mulValue v w = .ok (product f v.toNat w.toNat) := by
  refine except_bind_ok.mpr ⟨_, Field.elemZ_eq_ok.mpr ⟨rfl, hx⟩, except_bind_ok.mpr
    ⟨_, Field.elemZ_eq_ok.mpr ⟨rfl, hy⟩, ?_⟩⟩
  by_cases h0 : v.toNat = 0 ∨ w.toNat = 0
  · rw [if_pos h0, product, if_pos h0]
    rfl
  · have hlx := hv.t1 v.toNat (by omega) hx
    have hly := hv.t1 w.toNat (by omega) hy
    obtain ⟨hlo, hhi⟩ := foldOnce_range f (d := logEntry f v.toNat + logEntry f w.toNat) (by omega) (by omega)
    rw [if_neg h0, product, if_neg h0]
    exact except_bind_ok.mpr ⟨_, Field.log_eq_entry hv (by omega) hx, except_bind_ok.mpr
      ⟨_, Field.log_eq_entry hv (by omega) hy, Field.exp_reduce_eq_power hm hv hm16 hlo hhi⟩⟩

/-- GF.SQR's value is the product of the element with itself (R171). -/
theorem Field.sqrValue_eq_product (hx : v.toNat < f.q) : f.sqrValue v = .ok (product f v.toNat v.toNat) := by
  refine except_bind_ok.mpr ⟨_, Field.elemZ_eq_ok.mpr ⟨rfl, hx⟩, ?_⟩
  by_cases h0 : v.toNat = 0
  · rw [if_pos h0, h0, product_zero]
    rfl
  · have hlx := hv.t1 v.toNat (by omega) hx
    obtain ⟨hlo, hhi⟩ := foldOnce_range f (d := logEntry f v.toNat + logEntry f v.toNat) (by omega) (by omega)
    rw [if_neg h0, product_of_ne_zero h0 h0]
    refine except_bind_ok.mpr ⟨_, Field.log_eq_entry hv (by omega) hx, ?_⟩
    rw [Int.shiftLeft_eq, pow_one, mul_two]
    exact Field.exp_reduce_eq_power hm hv hm16 hlo hhi

/-- GF.SQRT's value is the square root (R174). -/
theorem Field.sqrtValue_eq_root (hx : v.toNat < f.q) : f.sqrtValue v = .ok (root f v.toNat) := by
  refine except_bind_ok.mpr ⟨_, Field.elemZ_eq_ok.mpr ⟨rfl, hx⟩, ?_⟩
  by_cases h0 : v.toNat = 0
  · rw [if_pos h0, root, if_pos h0]
    rfl
  · have hlx := hv.t1 v.toNat (by omega) hx
    obtain ⟨hlo, hhi⟩ := foldOnce_mul_half hm hlx
    rw [if_neg h0, root, if_neg h0]
    refine except_bind_ok.mpr ⟨_, Field.log_eq_entry hv (by omega) hx, ?_⟩
    rw [Int.shiftLeft_eq]
    exact Field.exp_reduce_eq_power hm hv hm16 hlo hhi

end FieldValues

/-- An element comes back from its register as it is (R6). -/
theorem u32_toNat_of_lt_q {f : Field} (hm16 : f.m ≤ 16) {n : Nat} (h : n < f.q) : (u32 n).toNat = n := by
  have hq : f.q ≤ 2 ^ 16 := Nat.pow_le_pow_right (by omega) hm16
  exact word_toNat_of_lt (h.trans_le (hq.trans (by norm_num)))

/-- Settles O30: the values are products, roots and powers, and the laws are theirs. -/
theorem fieldLawsOfMultiplication : Obligations.FieldLawsOfMultiplication := by
  intro f hm hm16 hv x y z hx hy hz
  have back {n : Nat} (h : n < f.q) : (u32 n).toNat = n := u32_toNat_of_lt_q hm16 h
  have mul {v w : Word} (h : v.toNat < f.q) (h' : w.toNat < f.q) :
      f.mulValue v w = .ok (product f v.toNat w.toNat) := Field.mulValue_eq_product hv hm hm16 h h'
  have hyz := product_lt hm hv y.toNat z.toNat
  have hxy := product_lt hm hv x.toNat y.toNat
  have hxx := product_lt hm hv x.toNat x.toNat
  have h1q : (1 : Word).toNat < f.q := Nat.one_lt_two_pow (by omega)
  have h0q : (0 : Word).toNat < f.q := Nat.two_pow_pos f.m
  refine ⟨⟨_, _, _, mul hy hz, mul hx hy, mul hx ((back hyz).trans_lt hyz), ?assoc⟩, ?comm, ?one, ?zero,
    fun h0 => ?inv, ?sqr, ⟨_, Field.sqrValue_eq_product hv hm hm16 hx, ?sqrt⟩, fun h0 => ?index⟩
  case assoc => rw [mul ((back hxy).trans_lt hxy) hz, back hxy, back hyz, product_assoc hm hv]
  case comm => rw [mul hx hy, mul hy hx, product_comm]
  case one => rw [mul hx h1q]; exact congrArg (fun n : Nat => Except.ok (n : Int)) (product_one hm hv hx)
  case zero => rw [mul hx h0q]; exact congrArg (fun n : Nat => Except.ok (n : Int)) (product_zero f x.toNat)
  case inv =>
    have hp := (power_range hm hv (-logEntry f x.toNat)).2
    refine ⟨_, Field.invValue_eq_power hv hx h0, ?_⟩
    rw [mul hx ((back hp).trans_lt hp), back hp, product_inverse hm hv (BitVec.toNat_pos_of_ne_zero h0).ne']
    rfl
  case sqr => rw [Field.sqrValue_eq_product hv hm hm16 hx, mul hx hx]
  case sqrt => rw [Field.sqrtValue_eq_root hv hm hm16 ((back hxx).trans_lt hxx), back hxx, root_product_self hm hv hx]
  case index =>
    have h1 := BitVec.toNat_pos_of_ne_zero h0
    exact ⟨hv.t1 _ h1 hx, fun i hi => expEntry_eq_iff hv h1 hx hi⟩

end Sys2Proof.Machine
end

section
/-! SUPPORT. The multiply family (43_gf_multiply.md): the rule of a field command with two sources, whose operand checks come
before everything else (R140, R129), the value of each multiply on legal operands (R141 to R150), and the relations of the
ten to one another (R152). -/

namespace Sys2Proof.Machine

open Sys2Proof.Safety

/-! ### The checks of two operands (42_gf_field.md R129) -/

/-- The check `chk` faults exactly as `bad` says, and passes a legal operand on as `operand` reads it. -/
structure Checks {α : Type} (chk : Field → Word → Except Fault α) (bad : Field → Word → Option Fault)
    (operand : Word → α) : Prop where
  fault : ∀ {f v e}, bad f v = some e → chk f v = .error e
  pass : ∀ {f v}, bad f v = none → chk f v = .ok (operand v)

/-- The check of a z operand. -/
theorem checks_elemZ : Checks Field.elemZ badZ BitVec.toNat where
  fault h := by
    unfold badZ at h
    unfold Field.elemZ
    split at h <;> cases h
    exact if_pos ‹_›
  pass h := Field.elemZ_eq_ok.mpr ⟨rfl, lt_q_of_badZ h⟩

/-- The check of an n operand. -/
theorem checks_elemN : Checks Field.elemN badN BitVec.toNat where
  fault := Field.elemN_of_badN
  pass h := by
    obtain ⟨hz, h0⟩ := badN_eq_none.mp h
    exact Field.elemN_eq_ok.mpr ⟨rfl, BitVec.toNat_pos_of_ne_zero h0, lt_q_of_badZ hz⟩

/-- The check of an r operand. -/
theorem checks_logR : Checks Field.logR badR fun v => (v.toNat : Int) where
  fault := Field.logR_of_badR
  pass h := Field.logR_eq_ok.mpr ⟨rfl, le_ord_of_badR h⟩

/-- A link that passes hands its value to the rest of the chain. -/
theorem except_bind_of_ok {α β : Type} {x : Except Fault α} {a : α} {k : α → Except Fault β} (h : x = .ok a) :
    (x >>= k) = k a := by
  subst h
  rfl

/-- Two operands are legal when each is. -/
theorem badPair_eq_none {bad1 bad2 : Field → Word → Option Fault} {f : Field} {v w : Word} :
    badPair bad1 bad2 f v w = none ↔ bad1 f v = none ∧ bad2 f w = none := Option.or_eq_none_iff

section TwoChecks

variable {α β : Type} {chk1 : Field → Word → Except Fault α} {chk2 : Field → Word → Except Fault β}
  {bad1 bad2 : Field → Word → Option Fault} {operand1 : Word → α} {operand2 : Word → β}
  (h1 : Checks chk1 bad1 operand1) (h2 : Checks chk2 bad2 operand2)
  {f : Field} {v w : Word} {k : α → β → Except Fault Int}
include h1 h2

/-- Of two checks in a row the first undefined case is the one named. -/
theorem twoChecks_fault {e : Fault} (h : badPair bad1 bad2 f v w = some e) :
    (chk1 f v >>= fun a => chk2 f w >>= k a) = .error e := by
  rcases Option.or_eq_some_iff.mp h with hv | ⟨hv, hw⟩
  · exact except_bind_error (h1.fault hv)
  · rw [except_bind_of_ok (h1.pass hv)]
    exact except_bind_error (h2.fault hw)

/-- Two checks in a row hand both operands on. -/
theorem twoChecks_pass (hv : bad1 f v = none) (hw : bad2 f w = none) :
    (chk1 f v >>= fun a => chk2 f w >>= k a) = k (operand1 v) (operand2 w) := by
  rw [except_bind_of_ok (h1.pass hv), except_bind_of_ok (h2.pass hw)]

end TwoChecks

/-! ### A field command with two sources (R140, 60_exceptions.md R206 (a)) -/

/-- An undefined value ends the run. -/
theorem fieldBinary_fault {i : Instr} {rd rs1 rs2 : Reg} {op : Field → Word → Word → Except Fault Int} {s : State}
    {e : Fault} (hf : s.frozen = true) (hv : op s.field s.x[rs1.val] s.x[rs2.val] = .error e) :
    fieldBinary i rd rs1 rs2 op s = .fault e := by
  rw [fieldBinary, if_pos hf, State.readReg, State.readReg, hv]
  exact writeResult_error rd e s

/-- A command that computes `op` of its sources obeys the rule, if `op` faults on the bad operands and gives the value
on the others. -/
theorem binaryRule_of_op {ready : State → Prop} {mk : Reg → Reg → Reg → Instr}
    {bad : Field → Word → Word → Option Fault} {value : Field → Word → Word → Int}
    (op : Field → Word → Word → Except Fault Int)
    (hexec : ∀ rd rs1 rs2 s, exec (mk rd rs1 rs2) s = fieldBinary (mk rd rs1 rs2) rd rs1 rs2 op s)
    (hready : ∀ s, ready s → s.frozen = true)
    (hbad : ∀ {f v w e}, bad f v w = some e → op f v w = .error e)
    (hgood : ∀ s v w, ready s → bad s.field v w = none → op s.field v w = .ok (value s.field v w)) :
    BinaryRule ready mk bad value := by
  intro rd rs1 rs2 s
  refine ⟨fun hf => raises_of_exec_eq ?frozen, fun hf _ _ e he => ?fault, fun hs _ _ hb => ?value⟩
  case frozen => rw [hexec, fieldBinary, if_neg (ne_true_of_eq_false hf)]
  case fault => rw [hexec]; exact fieldBinary_fault hf (hbad he)
  case value => rw [hexec]; exact fieldBinary_writesOnly (hready s hs) (hgood s _ _ hs hb)

/-- The same for a command whose value rests on the tables. -/
theorem binaryRule_of_tables {mk : Reg → Reg → Reg → Instr} {bad1 bad2 : Field → Word → Option Fault}
    {value : Field → Word → Word → Int} (op : Field → Word → Word → Except Fault Int)
    (hexec : ∀ rd rs1 rs2 s, exec (mk rd rs1 rs2) s = fieldBinary (mk rd rs1 rs2) rd rs1 rs2 op s)
    (hbad : ∀ {f v w e}, badPair bad1 bad2 f v w = some e → op f v w = .error e)
    (hgood : ∀ {f v w}, TablesValid f → f.m ≤ 16 → bad1 f v = none → bad2 f w = none →
      op f v w = .ok (value f v w)) :
    BinaryRule FieldReady mk (badPair bad1 bad2) value :=
  binaryRule_of_op op hexec (fun _ hs => hs.1) hbad fun _ _ _ ⟨_, _, hm16, hv⟩ hb =>
    have ⟨hb1, hb2⟩ := badPair_eq_none.mp hb
    hgood hv hm16 hb1 hb2

/-! ### The values of the z, z and n, n and r, r multiplies (R141, R142, R144, R145, R147, R148) -/

/-- GF.MUL.RRR's value on legal operands reads no table (R144). -/
theorem Field.mulRrrValue_eq {f : Field} {v w : Word} (hm16 : f.m ≤ 16) (ha : badR f v = none) (hb : badR f w = none) :
    f.mulRrrValue v w = .ok (foldOnce f (v.toNat + w.toNat)) := by
  rw [← Field.reduce_eq_foldOnce (by omega)]
  exact twoChecks_pass checks_logR checks_logR ha hb

section MultiplyValues

variable {f : Field} {v w : Word} (hv : TablesValid f)
include hv

/-- The logarithm of a non-zero element is 0 to ord - 1 (T1). -/
theorem logOf_range (hb : badN f v = none) : 0 ≤ logOf f v ∧ logOf f v < f.ord := by
  obtain ⟨hz, h0⟩ := badN_eq_none.mp hb
  exact Field.log_range hv (Field.log_toNat hv (lt_q_of_badZ hz) h0)

/-- Two lookups in a row hand on the logarithms of two non-zero elements. -/
theorem twoLogs_pass {k : Int → Int → Except Fault Int} (ha : badN f v = none) (hb : badN f w = none) :
    (f.log v.toNat >>= fun a => f.log w.toNat >>= k a) = k (logOf f v) (logOf f w) := by
  obtain ⟨hzv, hv0⟩ := badN_eq_none.mp ha
  obtain ⟨hzw, hw0⟩ := badN_eq_none.mp hb
  rw [except_bind_of_ok (Field.log_toNat hv (lt_q_of_badZ hzv) hv0),
    except_bind_of_ok (Field.log_toNat hv (lt_q_of_badZ hzw) hw0)]

/-- GF.MUL.LNN's value on legal operands (R147). -/
theorem Field.mulLnnValue_eq (ha : badN f v = none) (hb : badN f w = none) :
    f.mulLnnValue v w = .ok (logOf f v + logOf f w) :=
  (twoChecks_pass checks_elemN checks_elemN ha hb).trans (twoLogs_pass hv ha hb)

variable (hm16 : f.m ≤ 16)
include hm16

/-- GF.MUL.RNN's value on legal operands (R148). -/
theorem Field.mulRnnValue_eq (ha : badN f v = none) (hb : badN f w = none) :
    f.mulRnnValue v w = .ok (foldOnce f (logOf f v + logOf f w)) := by
  rw [← Field.reduce_eq_foldOnce (by omega)]
  exact (twoChecks_pass checks_elemN checks_elemN ha hb).trans (twoLogs_pass hv ha hb)

/-- `EXP` of a sum or difference of two logarithms, reduced (R124 (e)). -/
theorem Field.exp_reduce_eq_expOf {d : Int} (h0 : -(f.ord : Int) ≤ d) (h1 : d ≤ 2 * f.ord) :
    f.exp (f.reduce d) = .ok (expOf f (foldOnce f d)) := by
  obtain ⟨hlo, hhi⟩ := foldOnce_range f h0 h1
  rw [Field.reduce_eq_foldOnce (by omega)]
  lift foldOnce f d to Nat using hlo with r
  exact Field.exp_eq_entry hv (by exact_mod_cast hhi)

/-- `EXP` of the reduced sum of the logarithms of two non-zero elements. -/
theorem Field.exp_reduce_logs (ha : badN f v = none) (hb : badN f w = none) :
    f.exp (f.reduce (logOf f v + logOf f w)) = .ok (expOf f (foldOnce f (logOf f v + logOf f w))) := by
  have hlv := logOf_range hv ha
  have hlw := logOf_range hv hb
  exact Field.exp_reduce_eq_expOf hv hm16 (by omega) (by omega)

/-- GF.MUL.NNN's value on legal operands (R142). -/
theorem Field.mulNnnValue_eq (ha : badN f v = none) (hb : badN f w = none) :
    f.mulNnnValue v w = .ok (expOf f (foldOnce f (logOf f v + logOf f w))) := by
  rw [← Field.exp_reduce_logs hv hm16 ha hb]
  exact (twoChecks_pass checks_elemN checks_elemN ha hb).trans (twoLogs_pass hv ha hb)

/-- GF.MUL.NRR's value on legal operands (R145). -/
theorem Field.mulNrrValue_eq (ha : badR f v = none) (hb : badR f w = none) :
    f.mulNrrValue v w = .ok (expOf f (foldOnce f (v.toNat + w.toNat))) := by
  have hlv := le_ord_of_badR ha
  have hlw := le_ord_of_badR hb
  rw [← Field.exp_reduce_eq_expOf hv hm16 (by omega) (by omega)]
  exact twoChecks_pass checks_logR checks_logR ha hb

/-- GF.MUL's value on legal operands: the zero test after both range tests, and before the tables (R141). -/
theorem Field.mulValue_eq (ha : badZ f v = none) (hb : badZ f w = none) :
    f.mulValue v w = .ok (if v = 0 ∨ w = 0 then 0 else expOf f (foldOnce f (logOf f v + logOf f w))) := by
  refine (twoChecks_pass checks_elemZ checks_elemZ ha hb).trans ?_
  by_cases h0 : v = 0 ∨ w = 0
  · rw [if_pos h0, if_pos (by simpa [BitVec.toNat_eq] using h0)]
    rfl
  · rw [if_neg h0, if_neg (by simpa [BitVec.toNat_eq] using h0)]
    obtain ⟨hv0, hw0⟩ := not_or.mp h0
    have hnv := badN_eq_none.mpr ⟨ha, hv0⟩
    have hnw := badN_eq_none.mpr ⟨hb, hw0⟩
    exact (twoLogs_pass hv hnv hnw).trans (Field.exp_reduce_logs hv hm16 hnv hnw)

end MultiplyValues

/-- Settles O21: each command is its two checks, a zero test where an operand is z, and a lookup at the reduced sum. -/
theorem multiplyGivingElements : Obligations.MultiplyGivingElements :=
  ⟨binaryRule_of_tables Field.mulValue (fun _ _ _ _ => rfl) (twoChecks_fault checks_elemZ checks_elemZ)
      Field.mulValue_eq,
    binaryRule_of_tables Field.mulNnnValue (fun _ _ _ _ => rfl) (twoChecks_fault checks_elemN checks_elemN)
      Field.mulNnnValue_eq,
    binaryRule_of_tables Field.mulNrrValue (fun _ _ _ _ => rfl) (twoChecks_fault checks_logR checks_logR)
      Field.mulNrrValue_eq,
    binaryRule_of_tables Field.mulNrnValue (fun _ _ _ _ => rfl) (twoChecks_fault checks_logR checks_elemN)
      Field.mulNrnValue_eq,
    binaryRule_of_tables Field.mulZrzValue (fun _ _ _ _ => rfl) (twoChecks_fault checks_logR checks_elemZ)
      Field.mulZrzValue_eq⟩

/-- Settles O22: each command is its two checks, the lookups of its n operands, and the sum, plain or reduced. LLL has no
check. -/
theorem multiplyGivingLogarithms : Obligations.MultiplyGivingLogarithms :=
  ⟨binaryRule_of_op Field.mulLllValue (fun _ _ _ _ => rfl) (fun _ hs => hs) (fun he => nomatch he)
      fun _ _ _ _ _ => rfl,
    binaryRule_of_op Field.mulRrrValue (fun _ _ _ _ => rfl) (fun _ hs => hs.1) (twoChecks_fault checks_logR checks_logR)
      fun _ _ _ ⟨_, _, hm16⟩ hb =>
        have ⟨hbv, hbw⟩ := badPair_eq_none.mp hb
        Field.mulRrrValue_eq hm16 hbv hbw,
    binaryRule_of_tables Field.mulRrnValue (fun _ _ _ _ => rfl) (twoChecks_fault checks_logR checks_elemN)
      Field.mulRrnValue_eq,
    binaryRule_of_tables Field.mulLnnValue (fun _ _ _ _ => rfl) (twoChecks_fault checks_elemN checks_elemN)
      fun hv _ => Field.mulLnnValue_eq hv,
    binaryRule_of_tables Field.mulRnnValue (fun _ _ _ _ => rfl) (twoChecks_fault checks_elemN checks_elemN)
      Field.mulRnnValue_eq⟩

/-! ### Results that are operands again (00_scope.md R6, 30_encoding.md R65) -/

section Registers

variable {f : Field} {d : Int} (hm16 : f.m ≤ 16)
include hm16

/-- A logarithm comes back from its register as it is, and is a legal r operand. -/
theorem u32_of_isR (h : IsR f d) : ((u32 d).toNat : Int) = d ∧ badR f (u32 d) = none := by
  obtain ⟨h0, h1⟩ := h
  lift d to Nat using h0
  have hback : (u32 d).toNat = d := u32_toNat_of_lt_q hm16 (by rw [← f.ord_succ]; omega)
  exact ⟨congrArg Nat.cast hback, if_neg (by omega)⟩

/-- A sum of two logarithms comes back from its register as it is, also in the signed reading. -/
theorem logL_u32_of_isLogSum (h : IsLogSum f d) : logL (u32 d) = d := by
  have hq : f.q ≤ 2 ^ 16 := Nat.pow_le_pow_right (by omega) hm16
  have := f.ord_succ
  obtain ⟨h0, h1⟩ := h
  exact BitVec.toInt_ofInt_eq_self (by omega) (by omega) (by omega)

/-- GF.EXP of the register that holds a logarithm. -/
theorem Field.expValue_u32 (hv : TablesValid f) (h : IsR f d) : f.expValue (u32 d) = .ok (expOf f d) := by
  obtain ⟨hback, hbad⟩ := u32_of_isR hm16 h
  rw [Field.expValue_eq hv hbad, hback]

/-- GF.RED of the register that holds a sum of two logarithms. -/
theorem Field.redValue_u32 (h : IsLogSum f d) : f.redValue (u32 d) = .ok (foldOnce f d) := by
  rw [Field.redValue, logL_u32_of_isLogSum hm16 h, Field.reduce_eq_foldOnce (by omega)]

end Registers

/-- Settles O31: every value is `EXP` of, or is, the sum of the two logarithms folded once, and what passes through a
register comes back as it is. -/
theorem relationsInsideTheMultiplyFamily : Obligations.RelationsInsideTheMultiplyFamily := by
  intro f _ hm16 hv x y a hx0 hy0 hx hy ha
  have hzx : badZ f x = none := if_neg (by omega)
  have hzy : badZ f y = none := if_neg (by omega)
  have hnx := badN_eq_none.mpr ⟨hzx, hx0⟩
  have hny := badN_eq_none.mpr ⟨hzy, hy0⟩
  have hra : badR f a = none := if_neg (by omega)
  have hlx := logOf_range hv hnx
  have hly := logOf_range hv hny
  obtain ⟨hbackx, hbadx⟩ := u32_of_isR (d := logOf f x) hm16 ⟨hlx.1, hlx.2.le⟩
  obtain ⟨hbacky, hbady⟩ := u32_of_isR (d := logOf f y) hm16 ⟨hly.1, hly.2.le⟩
  have hsum : IsLogSum f (logOf f x + logOf f y) := ⟨by omega, by omega⟩
  have hfold : IsR f (foldOnce f (logOf f x + logOf f y)) := foldOnce_range f (by omega) (by omega)
  have hexp := Field.expValue_u32 hm16 hv hfold
  refine ⟨⟨_, _, _, _, _, _, Field.mulNnnValue_eq hv hm16 hnx hny, Field.mulRnnValue_eq hv hm16 hnx hny, hexp,
    Field.mulLnnValue_eq hv hnx hny, Field.redValue_u32 hm16 hsum, hexp, Field.logValue_eq hv hnx,
    Field.logValue_eq hv hny, ?rrr, ?mul⟩, _, _, Field.mulNrnValue_eq hv hm16 hra hny, Field.logValue_eq hv hny, ?nrr⟩
  case rrr => rw [Field.mulRrrValue_eq hm16 hbadx hbady, hbackx, hbacky]
  case mul => rw [Field.mulValue_eq hv hm16 hzx hzy, if_neg (not_or.mpr ⟨hx0, hy0⟩)]
  case nrr => rw [Field.mulNrrValue_eq hv hm16 hra hbady, hbacky]

end Sys2Proof.Machine
end

section
/-! SUPPORT. The divide family (44_gf_divide.md): the value of each divide on legal operands (R161 to R167), the range
of the difference of two logarithms (R163, R164), and division as the product with the inverse (R168). -/

namespace Sys2Proof.Machine

open Sys2Proof.Safety

/-! ### The values on legal operands, and the ranges of the differences (R161 to R167) -/

/-- A non-zero element is a legal n operand. -/
theorem badN_of_element {f : Field} {v : Word} (hq : v.toNat < f.q) (h0 : v ≠ 0) : badN f v = none :=
  badN_eq_none.mpr ⟨if_neg (by omega), h0⟩

/-- GF.DIV.RRR's value on legal operands reads no table (R167). -/
theorem Field.divRrrValue_eq {f : Field} {v w : Word} (hm16 : f.m ≤ 16) (ha : badR f v = none)
    (hb : badR f w = none) : f.divRrrValue v w = .ok (foldOnce f ((v.toNat : Int) - w.toNat)) := by
  rw [← Field.reduce_eq_foldOnce (by omega)]
  exact twoChecks_pass checks_logR checks_logR ha hb

section DivideValues

variable {f : Field} {v w : Word} (hv : TablesValid f)
include hv

/-- A lookup hands on the logarithm of a non-zero element. -/
theorem log_pass {k : Int → Except Fault Int} (ha : badN f v = none) : (f.log v.toNat >>= k) = k (logOf f v) := by
  obtain ⟨hz, h0⟩ := badN_eq_none.mp ha
  exact except_bind_of_ok (Field.log_toNat hv (lt_q_of_badZ hz) h0)

/-- The difference of the logarithms of two non-zero elements is -ord to ord - 1 (R163). -/
theorem logOf_sub_logOf_range (ha : badN f v = none) (hb : badN f w = none) :
    -(f.ord : Int) ≤ logOf f v - logOf f w ∧ logOf f v - logOf f w < f.ord := by
  have hlv := logOf_range hv ha
  have hlw := logOf_range hv hb
  omega

/-- The logarithm of a non-zero element less an r operand is -ord to ord - 1 (R164). -/
theorem logOf_sub_toNat_range (ha : badN f v = none) (hb : badR f w = none) :
    -(f.ord : Int) ≤ logOf f v - w.toNat ∧ logOf f v - w.toNat < f.ord := by
  have hlv := logOf_range hv ha
  have hlw := le_ord_of_badR hb
  omega

variable (hm16 : f.m ≤ 16)
include hm16

/-- GF.DIV.RNN's value on legal operands (R163). -/
theorem Field.divRnnValue_eq (ha : badN f v = none) (hb : badN f w = none) :
    f.divRnnValue v w = .ok (foldOnce f (logOf f v - logOf f w)) := by
  rw [← Field.reduce_eq_foldOnce (by omega)]
  exact (twoChecks_pass checks_elemN checks_elemN ha hb).trans (twoLogs_pass hv ha hb)

/-- GF.DIV.RNR's value on legal operands (R164). -/
theorem Field.divRnrValue_eq (ha : badN f v = none) (hb : badR f w = none) :
    f.divRnrValue v w = .ok (foldOnce f (logOf f v - w.toNat)) := by
  rw [← Field.reduce_eq_foldOnce (by omega)]
  exact (twoChecks_pass checks_elemN checks_logR ha hb).trans (log_pass hv ha)

/-- `EXP` of the reduced difference of the logarithms of two non-zero elements. -/
theorem Field.exp_reduce_logs_sub (ha : badN f v = none) (hb : badN f w = none) :
    f.exp (f.reduce (logOf f v - logOf f w)) = .ok (expOf f (foldOnce f (logOf f v - logOf f w))) := by
  obtain ⟨hlo, hhi⟩ := logOf_sub_logOf_range hv ha hb
  exact Field.exp_reduce_eq_expOf hv hm16 hlo (by omega)

/-- GF.DIV.NNN's value on legal operands (R162). -/
theorem Field.divNnnValue_eq (ha : badN f v = none) (hb : badN f w = none) :
    f.divNnnValue v w = .ok (expOf f (foldOnce f (logOf f v - logOf f w))) := by
  rw [← Field.exp_reduce_logs_sub hv hm16 ha hb]
  exact (twoChecks_pass checks_elemN checks_elemN ha hb).trans (twoLogs_pass hv ha hb)

/-- GF.DIV.NRR's value on legal operands (R165). -/
theorem Field.divNrrValue_eq (ha : badR f v = none) (hb : badR f w = none) :
    f.divNrrValue v w = .ok (expOf f (foldOnce f ((v.toNat : Int) - w.toNat))) := by
  have hlv := le_ord_of_badR ha
  have hlw := le_ord_of_badR hb
  rw [← Field.exp_reduce_eq_expOf hv hm16 (by omega) (by omega)]
  exact twoChecks_pass checks_logR checks_logR ha hb

/-- GF.DIV's value on legal operands: a zero dividend is routed after both checks, and before the tables (R161). -/
theorem Field.divValue_eq (ha : badZ f v = none) (hb : badN f w = none) :
    f.divValue v w = .ok (if v = 0 then 0 else expOf f (foldOnce f (logOf f v - logOf f w))) := by
  refine (twoChecks_pass checks_elemZ checks_elemN ha hb).trans ?_
  by_cases h0 : v = 0
  · subst h0
    rfl
  · have hnv := badN_eq_none.mpr ⟨ha, h0⟩
    rw [if_neg h0, if_neg (BitVec.toNat_pos_of_ne_zero h0).ne']
    exact (twoLogs_pass hv hnv hb).trans (Field.exp_reduce_logs_sub hv hm16 hnv hb)

/-- GF.DIV.ZZR's value on legal operands: a zero dividend is routed before the lookup (R166). -/
theorem Field.divZzrValue_eq (ha : badZ f v = none) (hb : badR f w = none) :
    f.divZzrValue v w = .ok (if v = 0 then 0 else expOf f (foldOnce f (logOf f v - w.toNat))) := by
  refine (twoChecks_pass checks_elemZ checks_logR ha hb).trans ?_
  by_cases h0 : v = 0
  · subst h0
    rfl
  · have hnv := badN_eq_none.mpr ⟨ha, h0⟩
    obtain ⟨hlo, hhi⟩ := logOf_sub_toNat_range hv hnv hb
    rw [if_neg h0, if_neg (BitVec.toNat_pos_of_ne_zero h0).ne', ← Field.exp_reduce_eq_expOf hv hm16 hlo (by omega)]
    exact log_pass hv hnv

end DivideValues

/-- Settles O23: each command is its two checks, a zero test where the dividend is z, and a lookup at the reduced
difference. -/
theorem divideGivingElements : Obligations.DivideGivingElements :=
  ⟨binaryRule_of_tables Field.divValue (fun _ _ _ _ => rfl) (twoChecks_fault checks_elemZ checks_elemN)
      Field.divValue_eq,
    binaryRule_of_tables Field.divNnnValue (fun _ _ _ _ => rfl) (twoChecks_fault checks_elemN checks_elemN)
      Field.divNnnValue_eq,
    binaryRule_of_tables Field.divNrrValue (fun _ _ _ _ => rfl) (twoChecks_fault checks_logR checks_logR)
      Field.divNrrValue_eq,
    binaryRule_of_tables Field.divZzrValue (fun _ _ _ _ => rfl) (twoChecks_fault checks_elemZ checks_logR)
      Field.divZzrValue_eq⟩

/-- Settles O24: each command is its two checks, the lookups of its n operands, and the reduced difference, which is
below ord when its first term is a logarithm that was looked up. -/
theorem divideGivingLogarithms : Obligations.DivideGivingLogarithms := by
  refine ⟨?rnn, ?rnr, ?rrr, fun f _ _ hv v w => ⟨fun hb => ?rnnRange, fun hb => ?rnrRange, fun hb => ?rrrRange⟩⟩
  case rnn =>
    exact binaryRule_of_tables Field.divRnnValue (fun _ _ _ _ => rfl) (twoChecks_fault checks_elemN checks_elemN)
      Field.divRnnValue_eq
  case rnr =>
    exact binaryRule_of_tables Field.divRnrValue (fun _ _ _ _ => rfl) (twoChecks_fault checks_elemN checks_logR)
      Field.divRnrValue_eq
  case rrr =>
    exact binaryRule_of_op Field.divRrrValue (fun _ _ _ _ => rfl) (fun _ hs => hs.1)
      (twoChecks_fault checks_logR checks_logR) fun _ _ _ ⟨_, _, hm16⟩ hb =>
        have ⟨hbv, hbw⟩ := badPair_eq_none.mp hb
        Field.divRrrValue_eq hm16 hbv hbw
  case rnnRange =>
    obtain ⟨hbv, hbw⟩ := badPair_eq_none.mp hb
    obtain ⟨hlo, hhi⟩ := logOf_sub_logOf_range hv hbv hbw
    exact foldOnce_range_of_lt_ord f hlo hhi
  case rnrRange =>
    obtain ⟨hbv, hbw⟩ := badPair_eq_none.mp hb
    obtain ⟨hlo, hhi⟩ := logOf_sub_toNat_range hv hbv hbw
    exact ⟨hlo, by omega, foldOnce_range_of_lt_ord f hlo hhi⟩
  case rrrRange =>
    obtain ⟨hbv, hbw⟩ := badPair_eq_none.mp hb
    have hlv := le_ord_of_badR hbv
    have hlw := le_ord_of_badR hbw
    exact foldOnce_range f (by omega) (by omega)

/-! ### Division is the product with the inverse (R168) -/

/-- A non-zero element comes back from its register as it is, and is a legal n operand. -/
theorem u32_of_element {f : Field} {n : Nat} (hm16 : f.m ≤ 16) (h1 : 1 ≤ n) (hq : n < f.q) :
    (u32 n).toNat = n ∧ badN f (u32 n) = none := by
  have hback := u32_toNat_of_lt_q hm16 hq
  have hne : u32 n ≠ 0 := fun h => Nat.pos_iff_ne_zero.mp h1 (hback.symm.trans (congrArg BitVec.toNat h))
  exact ⟨hback, badN_of_element (hback.trans_lt hq) hne⟩

/-- The quotient of two elements, the second not zero: the first times the inverse of the second. -/
def quotient (f : Field) (x y : Nat) : Nat := product f x (power f (-logEntry f y))

section Quotients

variable {f : Field} {v w : Word} (hm : 1 ≤ f.m) (hv : TablesValid f)
include hm hv

/-- A quotient is an element. -/
theorem quotient_lt (x y : Nat) : quotient f x y < f.q := product_lt hm hv x _

/-- The product undoes the quotient. -/
theorem product_quotient {x y : Nat} (hx : x < f.q) (hy : y ≠ 0) : product f (quotient f x y) y = x := by
  rw [quotient, product_assoc hm hv, product_comm _ y, product_inverse hm hv hy, product_one hm hv hx]

/-- The quotient of 1 is the inverse. -/
theorem one_quotient (y : Nat) : quotient f 1 y = power f (-logEntry f y) := by
  rw [quotient, product_comm, product_one hm hv (power_range hm hv _).2]

/-- The quotient of non-zero elements is the power of the difference of the logarithms. -/
theorem quotient_of_ne_zero {x : Nat} (hx : x ≠ 0) (y : Nat) :
    quotient f x y = power f (logEntry f x - logEntry f y) := by
  rw [quotient, product_comm, power_product hm hv _ hx, neg_add_eq_sub]

variable (hm16 : f.m ≤ 16)
include hm16

/-- The element at a sum or difference of logarithms, folded once, is the power. -/
theorem expOf_foldOnce {d : Int} (h0 : -(f.ord : Int) ≤ d) (h1 : d ≤ 2 * f.ord) :
    expOf f (foldOnce f d) = power f d := by
  obtain ⟨hlo, hhi⟩ := foldOnce_range f h0 h1
  have hpower := Field.exp_reduce_eq_power hm hv hm16 hlo hhi
  exact Except.ok.inj ((Field.exp_reduce_eq_expOf hv hm16 h0 h1).symm.trans hpower)

/-- GF.DIV.NNN's value is the quotient (R162). -/
theorem Field.divNnnValue_eq_quotient (ha : badN f v = none) (hb : badN f w = none) :
    f.divNnnValue v w = .ok (quotient f v.toNat w.toNat) := by
  obtain ⟨-, h0⟩ := badN_eq_none.mp ha
  obtain ⟨hlo, hhi⟩ := logOf_sub_logOf_range hv ha hb
  rw [Field.divNnnValue_eq hv hm16 ha hb, expOf_foldOnce hm hv hm16 hlo (by omega),
    quotient_of_ne_zero hm hv (BitVec.toNat_pos_of_ne_zero h0).ne', logOf, logOf]

/-- GF.DIV's value is the quotient, of a zero dividend too (R161). -/
theorem Field.divValue_eq_quotient (ha : badZ f v = none) (hb : badN f w = none) :
    f.divValue v w = .ok (quotient f v.toNat w.toNat) := by
  rw [Field.divValue_eq hv hm16 ha hb]
  by_cases h0 : v = 0
  · subst h0
    exact congrArg (fun n : Nat => Except.ok (n : Int)) (zero_product f _).symm
  · have hnv := badN_eq_none.mpr ⟨ha, h0⟩
    rw [if_neg h0, ← Field.divNnnValue_eq hv hm16 hnv hb, Field.divNnnValue_eq_quotient hm hv hm16 hnv hb]

/-- GF.MUL.NNN's value is the product (R142). -/
theorem Field.mulNnnValue_eq_product (ha : badN f v = none) (hb : badN f w = none) :
    f.mulNnnValue v w = .ok (product f v.toNat w.toNat) := by
  obtain ⟨hzv, hv0⟩ := badN_eq_none.mp ha
  obtain ⟨hzw, hw0⟩ := badN_eq_none.mp hb
  rw [← Field.mulValue_eq_product hv hm hm16 (lt_q_of_badZ hzv) (lt_q_of_badZ hzw), Field.mulValue_eq hv hm16 hzv hzw,
    if_neg (not_or.mpr ⟨hv0, hw0⟩), Field.mulNnnValue_eq hv hm16 ha hb]

end Quotients

/-- Settles O32: the values are quotients, products and inverses, and what passes through a register comes back as it
is. -/
theorem relationsOfDivision : Obligations.RelationsOfDivision := by
  intro f hm hm16 hv x y hy0 hx hy
  have hny := badN_of_element hy hy0
  have hinv := Field.invValue_eq_power hv hy hy0
  refine ⟨⟨_, Field.divValue_eq_quotient hm hv hm16 (if_neg (by omega)) hny, ?undo⟩, ?one, fun hx0 => ?nonzero⟩
  case undo =>
    have hd := quotient_lt hm hv x.toNat y.toNat
    have hback := u32_toNat_of_lt_q hm16 hd
    rw [Field.mulValue_eq_product hv hm hm16 (hback.trans_lt hd) hy, hback,
      product_quotient hm hv hx (BitVec.toNat_pos_of_ne_zero hy0).ne']
  case one =>
    have hn1 : badN f 1 = none := badN_of_element (Nat.one_lt_two_pow (by omega)) (by decide)
    rw [Field.divNnnValue_eq_quotient hm hv hm16 hn1 hny, hinv]
    exact congrArg (fun n : Nat => Except.ok (n : Int)) (one_quotient hm hv y.toNat)
  case nonzero =>
    have hnx := badN_of_element hx hx0
    have hlx := logOf_range hv hnx
    have hly := logOf_range hv hny
    obtain ⟨hlo, hhi⟩ := logOf_sub_logOf_range hv hnx hny
    obtain ⟨hbackx, hbadx⟩ := u32_of_isR (d := logOf f x) hm16 ⟨hlx.1, hlx.2.le⟩
    obtain ⟨hbacky, hbady⟩ := u32_of_isR (d := logOf f y) hm16 ⟨hly.1, hly.2.le⟩
    have hexp := Field.expValue_u32 hm16 hv (foldOnce_range f hlo (by omega))
    refine ⟨_, _, _, _, _, Field.divNnnValue_eq hv hm16 hnx hny, Field.divRnnValue_eq hv hm16 hnx hny, hexp, hinv,
      ?mul, Field.logValue_eq hv hnx, Field.logValue_eq hv hny, ?rrr⟩
    case mul =>
      obtain ⟨hi1, hi⟩ := power_range hm hv (-logEntry f y.toNat)
      obtain ⟨hback, hni⟩ := u32_of_element hm16 hi1 hi
      rw [Field.mulNnnValue_eq_product hm hv hm16 hnx hni, hback, ← Field.divNnnValue_eq hv hm16 hnx hny]
      exact (Field.divNnnValue_eq_quotient hm hv hm16 hnx hny).symm
    case rrr => rw [Field.divRrrValue_eq hm16 hbadx hbady, hbackx, hbacky]

end Sys2Proof.Machine
end

section
/-! SUPPORT. Square, square root, inverse and power (45_gf_square_inverse_power.md): the value of each command on legal
operands (R171 to R174, R176 to R178, R180), and how they undo and express one another (R179, R181). -/

namespace Sys2Proof.Machine

open Sys2Proof.Safety

/-! ### The values on legal operands (R171 to R178) -/

/-- A command whose value rests on the tables obeys the rule; the form of `unaryRule_of_op` for `FieldReady`. -/
theorem unaryRule_of_tables {mk : Reg → Reg → Instr} {bad : Field → Word → Option Fault}
    {value : Field → Word → Int} (op : Field → Word → Except Fault Int)
    (hexec : ∀ rd rs1 s, exec (mk rd rs1) s = fieldUnary (mk rd rs1) rd rs1 op s)
    (hbad : ∀ {f v e}, bad f v = some e → op f v = .error e)
    (hgood : ∀ {f v}, TablesValid f → 1 ≤ f.m → f.m ≤ 16 → bad f v = none → op f v = .ok (value f v)) :
    UnaryRule FieldReady mk bad value :=
  unaryRule_of_op op hexec (fun _ hs => hs.1) (fun _ _ _ => hbad) fun _ _ ⟨_, hm, hm16, hv⟩ => hgood hv hm hm16

section OneCheck

variable {α : Type} {chk : Field → Word → Except Fault α} {bad : Field → Word → Option Fault} {operand : Word → α}
  (h : Checks chk bad operand) {f : Field} {v : Word} {k : α → Except Fault Int}
include h

/-- A check ends the run on its undefined case. -/
theorem oneCheck_fault {e : Fault} (hb : bad f v = some e) : (chk f v >>= k) = .error e :=
  except_bind_error (h.fault hb)

/-- A check hands a legal operand on. -/
theorem oneCheck_pass (hb : bad f v = none) : (chk f v >>= k) = k (operand v) := except_bind_of_ok (h.pass hb)

end OneCheck

/-- GF.SQR.RR's value on a legal operand reads no table (R173). -/
theorem Field.sqrRrValue_eq {f : Field} {v : Word} (hm16 : f.m ≤ 16) (hb : badR f v = none) :
    f.sqrRrValue v = .ok (foldOnce f (2 * (v.toNat : Int))) := by
  rw [← Field.reduce_eq_foldOnce (by omega), mul_comm, ← pow_one (2 : Int), ← Int.shiftLeft_eq]
  exact oneCheck_pass checks_logR hb

/-- GF.INV.RR's value on a legal operand (R178). -/
theorem Field.invRrValue_eq {f : Field} {v : Word} (hb : badR f v = none) :
    f.invRrValue v = .ok ((f.ord : Int) - v.toNat) := oneCheck_pass checks_logR hb

section Values

variable {f : Field} {v : Word} (hv : TablesValid f) (hm : 1 ≤ f.m) (hm16 : f.m ≤ 16)
include hv

/-- `EXP[i]` of an index of the table (R120). -/
theorem Field.exp_eq_expOf {i : Int} (h0 : 0 ≤ i) (h1 : i ≤ f.ord) : f.exp i = .ok (expOf f i) := by
  lift i to Nat using h0
  exact Field.exp_eq_entry hv (by exact_mod_cast h1)

/-- GF.SQR.LN's value on a legal operand (R172). -/
theorem Field.sqrLnValue_eq (hb : badN f v = none) : f.sqrLnValue v = .ok (2 * logOf f v) := by
  rw [mul_comm, ← pow_one (2 : Int), ← Int.shiftLeft_eq]
  exact (oneCheck_pass checks_elemN hb).trans (log_pass hv hb)

/-- GF.INV.RN's value on a legal operand (R177). -/
theorem Field.invRnValue_eq (hb : badN f v = none) : f.invRnValue v = .ok (f.ord - logOf f v) :=
  (oneCheck_pass checks_elemN hb).trans (log_pass hv hb)

/-- GF.INV's value on a legal operand: the index is 1 to ord (R176). -/
theorem Field.invValue_eq (hb : badN f v = none) : f.invValue v = .ok (expOf f (f.ord - logOf f v)) := by
  obtain ⟨hlo, hhi⟩ := logOf_range hv hb
  rw [← Field.exp_eq_expOf hv (by omega) (by omega)]
  exact (oneCheck_pass checks_elemN hb).trans (log_pass hv hb)

/-- A z operand routed before the tables: zero gives 0, any other element what `k` gives of its logarithm (R171,
R174). -/
theorem zeroRouted_pass {k : Int → Except Fault Int} {r : Int} (hb : badZ f v = none)
    (hk : badN f v = none → k (logOf f v) = .ok r) :
    (f.elemZ v >>= fun x => if x = 0 then pure 0 else f.log x >>= k) = .ok (if v = 0 then 0 else r) := by
  rw [oneCheck_pass checks_elemZ hb]
  by_cases h0 : v = 0
  · subst h0
    rfl
  · have hn := badN_eq_none.mpr ⟨hb, h0⟩
    rw [if_neg h0, if_neg (BitVec.toNat_pos_of_ne_zero h0).ne', log_pass hv hn, hk hn]

include hm16

/-- GF.SQR's value on a legal operand (R171). -/
theorem Field.sqrValue_eq (hb : badZ f v = none) :
    f.sqrValue v = .ok (if v = 0 then 0 else expOf f (foldOnce f (2 * logOf f v))) := by
  refine zeroRouted_pass hv hb fun hn => ?_
  obtain ⟨hlo, hhi⟩ := logOf_range hv hn
  rw [Int.shiftLeft_eq, pow_one, mul_comm]
  exact Field.exp_reduce_eq_expOf hv hm16 (by omega) (by omega)

include hm in
/-- GF.SQRT's value on a legal operand: one folding is enough (R174, R175). -/
theorem Field.sqrtValue_eq (hb : badZ f v = none) :
    f.sqrtValue v = .ok (if v = 0 then 0 else expOf f (foldOnce f (logOf f v * 2 ^ (f.m - 1)))) := by
  refine zeroRouted_pass hv hb fun hn => ?_
  have hlog : logEntry f v.toNat < f.ord := Int.ofNat_lt.mp (logOf_range hv hn).2
  obtain ⟨hlo, hle⟩ := foldOnce_mul_half hm hlog
  rw [Int.shiftLeft_eq, Field.reduce_eq_foldOnce (by omega)]
  exact Field.exp_eq_expOf hv hlo hle

end Values

/-! ### GF.POW (R180) -/

section Power

variable {f : Field} {v w : Word}

/-- GF.POW on a base of the field: the cases in their order, the lookups in the last one only (R180). -/
theorem Field.powValue_of_element (hb : badZ f v = none) :
    f.powValue v w =
      if w.toInt = 0 then .ok 1
      else if v = 0 then if w.toInt < 0 then .error .zeroToNegativePower else .ok 0
      else f.log v.toNat >>= fun a => f.exp (a * w.toInt % f.ord) := by
  refine (oneCheck_pass checks_elemZ hb).trans ?_
  refine ite_congr rfl (fun _ => rfl) fun _ => ?_
  by_cases h0 : v = 0
  · subst h0
    rfl
  · rw [if_neg h0, if_neg (BitVec.toNat_pos_of_ne_zero h0).ne']
    rfl

/-- GF.POW faults on a base outside the field, and then on a base 0 under a negative exponent. -/
theorem Field.powValue_fault {e : Fault}
    (h : (badZ f v).or (if v = 0 ∧ w.toInt < 0 then some .zeroToNegativePower else none) = some e) :
    f.powValue v w = .error e := by
  rcases Option.or_eq_some_iff.mp h with hb | ⟨hb, hzero⟩
  · exact oneCheck_fault checks_elemZ hb
  · obtain ⟨⟨h0, hneg⟩, he⟩ := Option.ite_none_right_eq_some.mp hzero
    cases he
    rw [Field.powValue_of_element hb, if_neg hneg.ne, if_pos h0, if_pos hneg]

/-- GF.POW's value where it is defined. -/
theorem Field.powValue_eq (hv : TablesValid f) (hm : 1 ≤ f.m) (hb : badZ f v = none)
    (hdef : ¬(v = 0 ∧ w.toInt < 0)) :
    f.powValue v w =
      .ok (if w.toInt = 0 then 1 else if v = 0 then 0 else expOf f (logOf f v * w.toInt % f.ord)) := by
  rw [Field.powValue_of_element hb]
  by_cases hi : w.toInt = 0
  · rw [if_pos hi, if_pos hi]
  rw [if_neg hi, if_neg hi]
  by_cases h0 : v = 0
  · rw [if_pos h0, if_pos h0, if_neg fun hneg => hdef ⟨h0, hneg⟩]
  · have hpos : (0 : Int) < f.ord := by exact_mod_cast Field.ord_pos hm
    rw [if_neg h0, if_neg h0, log_pass hv (badN_eq_none.mpr ⟨hb, h0⟩)]
    exact Field.exp_eq_expOf hv (Int.emod_nonneg _ hpos.ne') (Int.emod_lt_of_pos _ hpos).le

end Power

/-- Settles O25: each command is the check of its operand, a zero test where it is z, and a lookup or a folding of the
doubled or shifted logarithm. -/
theorem squareAndSquareRoot : Obligations.SquareAndSquareRoot := by
  refine ⟨?sqr, ?ln, ?rr, ?sqrt⟩
  case sqr =>
    exact unaryRule_of_tables Field.sqrValue (fun _ _ _ => rfl) (oneCheck_fault checks_elemZ)
      fun hv _ => Field.sqrValue_eq hv
  case ln =>
    exact unaryRule_of_tables Field.sqrLnValue (fun _ _ _ => rfl) (oneCheck_fault checks_elemN)
      fun hv _ _ => Field.sqrLnValue_eq hv
  case rr =>
    exact unaryRule_of_op Field.sqrRrValue (fun _ _ _ => rfl) (fun _ hs => hs.1)
      (fun _ _ _ => oneCheck_fault checks_logR) fun _ _ ⟨_, _, hm16⟩ => Field.sqrRrValue_eq hm16
  case sqrt =>
    exact unaryRule_of_tables Field.sqrtValue (fun _ _ _ => rfl) (oneCheck_fault checks_elemZ) Field.sqrtValue_eq

/-- Settles O26: each command is the check of its operand and the difference from ord, looked up by GF.INV. -/
theorem inverseCommands : Obligations.InverseCommands := by
  refine ⟨?inv, ?rn, ?rr⟩
  case inv =>
    exact unaryRule_of_tables Field.invValue (fun _ _ _ => rfl) (oneCheck_fault checks_elemN)
      fun hv _ _ => Field.invValue_eq hv
  case rn =>
    exact unaryRule_of_tables Field.invRnValue (fun _ _ _ => rfl) (oneCheck_fault checks_elemN)
      fun hv _ _ => Field.invRnValue_eq hv
  case rr =>
    exact unaryRule_of_op Field.invRrValue (fun _ _ _ => rfl) (fun _ hs => hs.1)
      (fun _ _ _ => oneCheck_fault checks_logR) fun _ _ _ => Field.invRrValue_eq

/-- Settles O27: the cases of GF.POW in their order, the faults before the values. -/
theorem powerWithSignedExponent : Obligations.PowerWithSignedExponent := by
  refine binaryRule_of_op Field.powValue (fun _ _ _ _ => rfl) (fun _ hs => hs.1) Field.powValue_fault
    fun s v w ⟨_, hm, _, hv⟩ hb => ?_
  obtain ⟨hz, hdef⟩ := Option.or_eq_none_iff.mp hb
  exact Field.powValue_eq hv hm hz fun h => by simp [h] at hdef

/-! ### Square, root and inverse undo one another (R179) -/

section Inverses

variable {f : Field} (hm : 1 ≤ f.m) (hv : TablesValid f) {x : Nat} (hx : x < f.q)
include hm hv

/-- A root is an element. -/
theorem root_lt (x : Nat) : root f x < f.q := by
  unfold root
  split
  · exact Nat.two_pow_pos f.m
  · exact (power_range hm hv _).2

/-- A product of two powers adds the exponents. -/
theorem power_mul_power (d d' : Int) : product f (power f d) (power f d') = power f (d + d') := by
  rw [power_product hm hv d (Nat.pos_iff_ne_zero.mp (power_range hm hv d').1)]
  exact power_congr ((logEntry_power hm hv d').add_left d)

include hx

/-- The square of a root is the element: 2·2^(M - 1) = ord + 1 is 1 modulo ord (R175). -/
theorem product_root_self : product f (root f x) (root f x) = x := by
  rcases eq_or_ne x 0 with rfl | h0
  · simp [root]
  have hpow := Field.two_mul_half hm
  have hexp : (logEntry f x * 2 ^ (f.m - 1) + logEntry f x * 2 ^ (f.m - 1) : Int) ≡ logEntry f x [ZMOD f.ord] :=
    Int.modEq_iff_dvd.mpr ⟨-logEntry f x, by linear_combination (-logEntry f x : Int) * hpow⟩
  rw [root, if_neg h0, power_mul_power hm hv, power_congr hexp, power_logEntry hv (Nat.pos_of_ne_zero h0) hx]

/-- The inverse of the inverse is the element. -/
theorem inverse_inverse (h0 : x ≠ 0) : power f (-logEntry f (power f (-logEntry f x))) = x := by
  rw [power_congr (logEntry_power hm hv _).neg, neg_neg, power_logEntry hv (Nat.pos_of_ne_zero h0) hx]

end Inverses

/-- An r operand complemented twice comes back (R178). -/
theorem Field.invRrValue_invRrValue {f : Field} (hm16 : f.m ≤ 16) {a : Word} (ha : a.toNat ≤ f.ord) :
    ∃ b : Int, f.invRrValue a = .ok b ∧ f.invRrValue (u32 b) = .ok a.toNat := by
  obtain ⟨hback, hbad⟩ := u32_of_isR (d := f.ord - a.toNat) hm16 ⟨by omega, by omega⟩
  exact ⟨_, Field.invRrValue_eq (if_neg (by omega)), by rw [Field.invRrValue_eq hbad, hback, sub_sub_cancel]⟩

/-- Settles O33: the values are inverses, squares and roots of elements, and what passes through a register comes back
as it is. -/
theorem relationsOfInverseSquareAndRoot : Obligations.RelationsOfInverseSquareAndRoot := by
  intro f hm hm16 hv x a hx ha
  have hzx : badZ f x = none := if_neg (by omega)
  refine ⟨fun hx0 => ?nonzero, Field.invRrValue_invRrValue hm16 ha, ?undo⟩
  case nonzero =>
    have hnx := badN_of_element hx hx0
    have hlx := logOf_range hv hnx
    obtain ⟨hback, hbad⟩ := u32_of_isR (d := logOf f x) hm16 ⟨hlx.1, hlx.2.le⟩
    have hinv := Field.expValue_u32 (d := f.ord - logOf f x) hm16 hv ⟨by omega, by omega⟩
    have hsqr := Field.expValue_u32 hm16 hv (foldOnce_range f (d := 2 * logOf f x) (by omega) (by omega))
    refine ⟨_, _, _, _, _, _, Field.invValue_eq hv hnx, Field.invRnValue_eq hv hnx, hinv, Field.logValue_eq hv hnx,
      by rw [Field.invRrValue_eq hbad, hback], hinv, ?involution, by rw [Field.sqrValue_eq hv hm16 hzx, if_neg hx0],
      by rw [Field.sqrRrValue_eq hm16 hbad, hback], hsqr⟩
    case involution =>
      have hpower := Except.ok.inj ((Field.invValue_eq hv hnx).symm.trans (Field.invValue_eq_power hv hx hx0))
      obtain ⟨hi1, hi⟩ := power_range hm hv (-logEntry f x.toNat)
      obtain ⟨hiback, hni⟩ := u32_of_element hm16 hi1 hi
      have hx1 := (BitVec.toNat_pos_of_ne_zero hx0).ne'
      rw [hpower, Field.invValue_eq_power hv (hiback.trans_lt hi) (badN_eq_none.mp hni).2, hiback,
        inverse_inverse hm hv hx hx1]
  case undo =>
    have hsq := product_lt hm hv x.toNat x.toNat
    have hrt := root_lt hm hv x.toNat
    have hbsq := u32_toNat_of_lt_q hm16 hsq
    have hbrt := u32_toNat_of_lt_q hm16 hrt
    refine ⟨_, _, Field.sqrValue_eq_product hv hm hm16 hx, ?rootOfSquare, Field.sqrtValue_eq_root hv hm hm16 hx,
      ?squareOfRoot⟩
    case rootOfSquare =>
      rw [Field.sqrtValue_eq_root hv hm hm16 (hbsq.trans_lt hsq), hbsq, root_product_self hm hv hx]
    case squareOfRoot =>
      rw [Field.sqrValue_eq_product hv hm hm16 (hbrt.trans_lt hrt), hbrt, product_root_self hm hv hx]

/-! ### Powers of an element (R181) -/

/-- The power of an element to an exponent that is positive where the element is 0. -/
def elementPower (f : Field) (x : Nat) (i : Int) : Nat := if x = 0 then 0 else power f (logEntry f x * i)

/-- An exponent of the signed range comes back from its register as it is (R6). -/
theorem toInt_u32 {d : Int} (h0 : -2 ^ 31 ≤ d) (h1 : d < 2 ^ 31) : (u32 d).toInt = d :=
  BitVec.toInt_ofInt_eq_self (by omega) (by omega) (by omega)

section ElementPowers

variable {f : Field} {x : Nat}

/-- Every positive power of 0 is 0. -/
@[simp] theorem elementPower_zero (i : Int) : elementPower f 0 i = 0 := if_pos rfl

/-- A power of a non-zero element multiplies the logarithm. -/
theorem elementPower_of_ne_zero (h0 : x ≠ 0) (i : Int) : elementPower f x i = power f (logEntry f x * i) := if_neg h0

/-- The exponent 2^(M - 1) gives the root. -/
theorem elementPower_half (x : Nat) : elementPower f x (2 ^ (f.m - 1)) = root f x := rfl

/-- Exponents of a non-zero element count modulo ord only. -/
theorem elementPower_add_ord_mul (h0 : x ≠ 0) (i k : Int) : elementPower f x (i + f.ord * k) = elementPower f x i := by
  rw [elementPower_of_ne_zero h0, elementPower_of_ne_zero h0]
  exact power_congr (Int.modEq_iff_dvd.mpr ⟨-(logEntry f x * k), by ring⟩)

/-- The exponent 2 gives the square. -/
theorem elementPower_two (x : Nat) : elementPower f x 2 = product f x x := by
  rcases eq_or_ne x 0 with rfl | h0
  · simp
  · rw [elementPower_of_ne_zero h0, product_of_ne_zero h0 h0, mul_two]

variable (hv : TablesValid f)
include hv

/-- The exponent 1 gives the element. -/
theorem elementPower_one (hx : x < f.q) : elementPower f x 1 = x := by
  rcases eq_or_ne x 0 with rfl | h0
  · simp
  · rw [elementPower_of_ne_zero h0, mul_one, power_logEntry hv (Nat.pos_of_ne_zero h0) hx]

variable (hm : 1 ≤ f.m)
include hm

/-- The product of two powers of a non-zero element adds the exponents. -/
theorem product_elementPower (h0 : x ≠ 0) (i j : Int) :
    product f (elementPower f x i) (elementPower f x j) = elementPower f x (i + j) := by
  simp only [elementPower_of_ne_zero h0, power_mul_power hm hv, mul_add]

/-- A power of an element is an element. -/
theorem elementPower_lt (x : Nat) (i : Int) : elementPower f x i < f.q := by
  unfold elementPower
  split
  · exact Nat.two_pow_pos f.m
  · exact (power_range hm hv _).2

/-- GF.POW's value is the power, of every element for a positive exponent and of a non-zero element for any. -/
theorem Field.powValue_eq_elementPower {v w : Word} (hx : v.toNat < f.q) (hdef : v ≠ 0 ∨ 0 < w.toInt) :
    f.powValue v w = .ok (elementPower f v.toNat w.toInt) := by
  have hpos : (0 : Int) < f.ord := by exact_mod_cast Field.ord_pos hm
  rw [Field.powValue_of_element (if_neg (by omega))]
  by_cases h0 : v = 0
  · have hi : 0 < w.toInt := hdef.resolve_left (not_not_intro h0)
    rw [if_neg hi.ne', if_pos h0, if_neg hi.le.not_gt, h0]
    exact congrArg (fun n : Nat => Except.ok (n : Int)) (elementPower_zero _).symm
  have h1 := BitVec.toNat_pos_of_ne_zero h0
  rw [if_neg h0, elementPower_of_ne_zero h1.ne']
  by_cases hi : w.toInt = 0
  · rw [if_pos hi, hi, mul_zero, power, Int.zero_emod, Int.toNat_zero, hv.t4]
    rfl
  · rw [if_neg hi, log_pass hv (badN_of_element hx h0), logOf,
      Field.exp_eq_power hv (Int.emod_nonneg _ hpos.ne') (Int.emod_lt_of_pos _ hpos).le,
      power_congr (Int.mod_modEq _ _)]

end ElementPowers

/-- Settles O34: the values of GF.POW are powers of the element, and the relations are theirs. -/
theorem relationsOfPower : Obligations.RelationsOfPower := by
  intro f hm hm16 hv x i j hx
  have pow {v w : Word} (h : v.toNat < f.q) (hdef : v ≠ 0 ∨ 0 < w.toInt) :
      f.powValue v w = .ok (elementPower f v.toNat w.toInt) := Field.powValue_eq_elementPower hv hm h hdef
  have hone : (1 : Word).toInt = 1 := by decide
  have htwo : (2 : Word).toInt = 2 := by decide
  have hneg : (u32 (-1)).toInt = -1 := toInt_u32 (by norm_num) (by norm_num)
  refine ⟨?one, ?two, fun h0 => ?inverse, fun h0 _ _ ⟨k, hk⟩ => ?periodic, fun h0 hlo hhi => ?additive, fun _ => ?root⟩
  case one => rw [pow hx (.inr (by omega)), hone, elementPower_one hv hx]
  case two => rw [pow hx (.inr (by omega)), htwo, elementPower_two, Field.sqrValue_eq_product hv hm hm16 hx]
  case inverse =>
    rw [pow hx (.inl h0), hneg, elementPower_of_ne_zero (BitVec.toNat_pos_of_ne_zero h0).ne', mul_neg_one,
      Field.invValue_eq_power hv hx h0]
  case periodic =>
    rw [pow hx (.inl h0), pow hx (.inl h0), hk, elementPower_add_ord_mul (BitVec.toNat_pos_of_ne_zero h0).ne']
  case additive =>
    have hi := elementPower_lt hv hm x.toNat i.toInt
    have hj := elementPower_lt hv hm x.toNat j.toInt
    have hbi := u32_toNat_of_lt_q hm16 hi
    have hbj := u32_toNat_of_lt_q hm16 hj
    refine ⟨_, _, _, pow hx (.inl h0), pow hx (.inl h0), pow hx (.inl h0), ?_⟩
    rw [Field.mulValue_eq_product hv hm hm16 (hbi.trans_lt hi) (hbj.trans_lt hj), hbi, hbj, toInt_u32 hlo hhi,
      product_elementPower hv hm (BitVec.toNat_pos_of_ne_zero h0).ne']
  case root =>
    have hle : (2 : Int) ^ (f.m - 1) ≤ 2 ^ 15 := pow_le_pow_right₀ (by norm_num) (by omega)
    have hpos : (0 : Int) < 2 ^ (f.m - 1) := by positivity
    have hback : (u32 (2 ^ (f.m - 1))).toInt = 2 ^ (f.m - 1) := toInt_u32 (by omega) (by omega)
    rw [pow hx (.inr (hpos.trans_eq hback.symm)), hback, elementPower_half, Field.sqrtValue_eq_root hv hm hm16 hx]

end Sys2Proof.Machine
end

section
/-! SUPPORT. The element codec (46_gf_codec.md): the two bytes of a register value and the value of two bytes (R45), each
test of GF.ENC and GF.DEC one equation (R191, R192), and the round trip from the effects of the two (R194). -/

namespace Sys2Proof.Machine

open Sys2Proof.Safety

/-! ### Two bytes and a register value (20_memory.md R45) -/

/-- The bytes that GF.ENC stores, by division. -/
theorem be16Bytes_extract_low (v : Word) :
    be16Bytes (v.extractLsb' 0 16) = [BitVec.ofNat 8 (v.toNat / 256), BitVec.ofNat 8 v.toNat] := by
  simp only [be16Bytes, List.cons.injEq, and_true, ← BitVec.toNat_inj, BitVec.extractLsb'_toNat, BitVec.toNat_ofNat,
    Nat.shiftRight_eq_div_pow]
  omega

/-- The value of two bytes fits a register, its bits 31:16 are 0 (R192). -/
theorem toNat_ofNat_of_bytes (b0 b1 : Byte) :
    (BitVec.ofNat 32 (256 * b0.toNat + b1.toNat)).toNat = 256 * b0.toNat + b1.toNat := by
  have h0 := b0.isLt
  have h1 := b1.isLt
  exact (BitVec.toNat_ofNat ..).trans (Nat.mod_eq_of_lt (by omega))

/-- The two low bytes of a number give it modulo 65536. -/
theorem value_of_low_bytes (n : Nat) :
    256 * (BitVec.ofNat 8 (n / 256)).toNat + (BitVec.ofNat 8 n).toNat = n % 65536 := by
  simp only [BitVec.toNat_ofNat]
  omega

/-- The value of two bytes has them as its two low bytes. -/
theorem low_bytes_of_value (b0 b1 : Byte) :
    [BitVec.ofNat 8 ((256 * b0.toNat + b1.toNat) / 256), BitVec.ofNat 8 (256 * b0.toNat + b1.toNat)] = [b0, b1] := by
  have h1 := b1.isLt
  have hhi : (256 * b0.toNat + b1.toNat) / 256 = b0.toNat := by omega
  have hlo : BitVec.ofNat 8 (256 * b0.toNat + b1.toNat) = b1 := by
    apply BitVec.eq_of_toNat_eq
    rw [BitVec.toNat_ofNat]
    omega
  rw [hhi, hlo, BitVec.ofNat_toNat, BitVec.setWidth_eq]

/-! ### GF.ENC (R191) -/

section Encode

variable {rd rs1 rs2 : Reg} {s : State}

/-- An address above 65534. -/
theorem execGfEnc_beyond (h : 65536 < s.x[rs2.val].toNat + 2) :
    execGfEnc rd rs1 rs2 s = raise (.gfEnc rd rs1 rs2) .bufRange s := by
  simp [execGfEnc, State.readReg, inBuf_of_beyond h]

/-- A legal address. -/
theorem execGfEnc_within (h : s.x[rs2.val].toNat + 2 ≤ 65536) :
    execGfEnc rd rs1 rs2 s = done ((s.setBuf (Memory.writeRange s.buf s.x[rs2.val].toNat
      [BitVec.ofNat 8 (s.x[rs1.val].toNat / 256), BitVec.ofNat 8 s.x[rs1.val].toNat])).writeReg rd 2) := by
  simp [execGfEnc, State.readReg, inBuf_of_fits h, be16Bytes_extract_low]

end Encode

/-- Settles O35: the range test, then the range write of the two bytes and the write of rd. -/
theorem encodeStoresTwoBytesBigEndian : Obligations.EncodeStoresTwoBytesBigEndian := by
  refine fun rd rs1 rs2 s _ _ => ⟨fun h => raises_of_exec_eq (execGfEnc_beyond h), fun h => ?_⟩
  exact ⟨_, execGfEnc_within h, rfl, s.setBuf_writeRange_stores _ _, setsReg_writeReg (s.setBuf _) rd 2, ⟨rfl, rfl⟩,
    ⟨rfl, rfl⟩, ⟨⟨rfl, rfl, rfl, rfl, rfl, rfl, rfl, rfl⟩, ⟨rfl, rfl⟩, rfl, rfl, rfl⟩, rfl, rfl, rfl⟩

/-! ### GF.DEC (R192) -/

section Decode

variable {rd rs1 : Reg} {s : State}

/-- An address above 65534. -/
theorem execGfDec_beyond (h : 65536 < s.x[rs1.val].toNat + 2) :
    execGfDec rd rs1 s = raise (.gfDec rd rs1) .bufRange s := by
  simp [execGfDec, State.readReg, inBuf_of_beyond h]

/-- A legal address. -/
theorem execGfDec_within (h : s.x[rs1.val].toNat + 2 ≤ 65536) :
    execGfDec rd rs1 s =
      withBytes s.x[rs1.val].toNat 2 (fun bs s => done (s.writeReg rd (BitVec.ofNat 32 (be16 bs)))) s := by
  simp [execGfDec, State.readReg, inBuf_of_fits h]

end Decode

/-- Settles O36: the range test, then the read of the two bytes and the write of rd. -/
theorem decodeLoadsTwoBytesBigEndian : Obligations.DecodeLoadsTwoBytesBigEndian := by
  refine fun rd rs1 s _ => ⟨fun h => raises_of_exec_eq (execGfDec_beyond h), fun h hun => ?unwritten,
    fun h b0 b1 hb => ⟨_, ?loaded, writesOnly_writeReg s rd _⟩⟩
  case unwritten => exact (execGfDec_within h).trans (withBytes_of_unwritten hun)
  case loaded =>
    rw [← be16_pair]
    exact (execGfDec_within h).trans (withBytes_of_holds rfl hb)

/-! ### GF.ENC and GF.DEC in turn (R194) -/

/-- A written register that a command does not write keeps its value and its mark (R12). -/
theorem written_kept_of_setsReg {rd r : Reg} {v : Word} {s t : State} (h : SetsReg rd v s t) (hne : rd ≠ r)
    (hw : Written s r) : t.x[r.val] = s.x[r.val] ∧ Written t r := by
  obtain ⟨-, -, hother⟩ := h
  obtain ⟨hx, hmark⟩ := hother r hne.symm
  exact ⟨hx, hmark.trans hw⟩

/-- A store after a command that leaves BUF is a store from the state before it. -/
theorem stores_of_sameBuf {a : Nat} {bs : List Byte} {s t u : State} (h : SameBuf s t) (hst : Stores a bs t u) :
    Stores a bs s u := ⟨hst.1, fun b hb => (hst.2 b hb).trans (h b)⟩

/-- Settles O37: each command has its effect (O35, O36), the first leaves the address register of the second, and the
two low bytes of a value and the value of two bytes are inverse to one another modulo 65536. -/
theorem codecRoundTrip : Obligations.CodecRoundTrip := by
  constructor
  case left =>
    intro rd1 rs1 rs2 rd2 s hw1 hw2 hfit hne
    obtain ⟨t, ht, -, ⟨hbytes, -⟩, hset, -⟩ := (encodeStoresTwoBytesBigEndian rd1 rs1 rs2 s hw1 hw2).2 hfit
    obtain ⟨haddr, hwt⟩ := written_kept_of_setsReg hset hne hw2
    rw [← haddr] at hfit hbytes
    obtain ⟨-, -, hload⟩ := decodeLoadsTwoBytesBigEndian rd2 rs2 t hwt
    obtain ⟨u, hu, -, ⟨hval, -⟩, -⟩ := hload hfit _ _ hbytes
    exact ⟨t, u, ht, hu, by rw [hval, toNat_ofNat_of_bytes, value_of_low_bytes]⟩
  case right =>
    intro rd1 rd2 rs1 rs2 s b0 b1 hw1 hw2 hsrc hb hne hdst
    obtain ⟨-, -, hload⟩ := decodeLoadsTwoBytesBigEndian rd1 rs1 s hw1
    obtain ⟨t, ht, -, hset, hbuf, -⟩ := hload hsrc b0 b1 hb
    obtain ⟨haddr, hwt⟩ := written_kept_of_setsReg hset hne hw2
    obtain ⟨hval, hw1t, -⟩ := hset
    rw [← haddr] at hdst
    obtain ⟨u, hu, -, hst, -⟩ := (encodeStoresTwoBytesBigEndian rd2 rd1 rs2 t hw1t hwt).2 hdst
    rw [haddr, hval, toNat_ofNat_of_bytes, low_bytes_of_value] at hst
    exact ⟨t, u, ht, hu, stores_of_sameBuf hbuf hst⟩

end Sys2Proof.Machine
end

section
/-! SUPPORT. How a command's status tells what it did (60_exceptions.md R203, R206, R215), and the reset state
(70_reset_and_hazards.md R231). -/

namespace Sys2Proof.Machine

open Sys2Proof.Safety

/-! ### The status of a command that answers (R200) -/

/-- PENDING after an error: emptied in the two cases of R93, else kept. -/
theorem pendingAfterError_pending (i : Instr) (c : Status) (s : State) :
    (pendingAfterError i c s).pending =
      if (i = .emsaRawdata ∧ c = .invalidArgument) ∨ (i = .emsaEncode ∧ c = .encodingFailure) then []
      else s.pending := apply_ite State.pending _ _ _

/-- An error leaves PENDING as R93 says, writes the response, CAUSE and FAULTCMD, and changes nothing else (R203). -/
theorem errorEntry_pendingAfterError (i : Instr) (c : Status) (s : State) :
    ErrorEntry (encode i) c (pendingAfterError i c s).pending s
      (((pendingAfterError i c s).latchError c (encode i)).respond (.status c)) := by
  rcases pendingAfterError_cases i c s with h | ⟨-, h⟩
  · rw [h]
    exact errorEntry_latchError s _ c
  · rw [h]
    exact errorEntry_latchError (s.setPending []) _ c

/-- What a command's status tells: an error status is one that R215 lists and comes with its error entry, and it is
IllegalState iff a cause of R206 stands; OK tells that none does. -/
theorem exec_responds {i : Instr} {s t : State} {c : Status} (ht : exec i s = .next t) (hr : Responds c s t) :
    (c ∈ statusesOf i s ∧ (c = .illegalState ↔ IllegalStateCause i s) ∧
      ErrorEntry (encode i) c (pendingAfterError i c s).pending s t) ∨
    (c = .ok ∧ ¬IllegalStateCause i s) := by
  rcases exec_next ht with ⟨c', hmem, hcause, rfl⟩ | ⟨hno, u, e, rfl⟩
  · have hentry := errorEntry_pendingAfterError i c' s
    have ⟨hresp, _⟩ := hentry
    obtain rfl : c' = c := responds_unique hresp hr
    exact .inl ⟨hmem, hcause, hentry⟩
  · exact .inr ⟨responds_unique hr (responds_respond e.ports.2), hno⟩

/-- Settles O51: a status other than OK comes with its error entry. -/
theorem errorsArePrecise : Obligations.ErrorsArePrecise := by
  intro i s t c hne ht hr
  rcases exec_responds ht hr with ⟨-, -, hentry⟩ | ⟨hok, -⟩
  · rwa [pendingAfterError_pending] at hentry
  · exact absurd hok hne

/-! ### The causes of IllegalState (R206) -/

/-- A write of a CSR that the state locks raises IllegalState, whether from a register or from an immediate
(R206 (c), (d)). -/
theorem exec_of_writesCsr_locked {i : Instr} {c : Csr} {s : State} (hw : writesCsr i c)
    (hl : s.csrLocked c = true) : exec i s = raise i .illegalState s := by
  cases i with
  | csrw n rs | csrwi n imm16 => exact csrWrite_locked _ _ hw hl
  | _ => exact hw.elim

/-- Each cause of R206 makes the command raise IllegalState, whatever its registers hold. -/
theorem exec_of_illegalStateCause {i : Instr} {s : State} (h : IllegalStateCause i s) :
    exec i s = raise i .illegalState s := by
  rcases h with ⟨hn, hf⟩ | ⟨rfl, hf⟩ | ⟨hw, hf⟩ | ⟨hw | hw, hp⟩ | ⟨rfl | rfl, hp⟩
  · exact exec_of_not_frozen hn hf
  · exact if_pos hf
  · exact exec_of_writesCsr_locked hw hf
  · exact exec_of_writesCsr_locked hw (csrLocked_iff_writeForbidden.mpr (.inr ⟨.inl rfl, hp⟩))
  · exact exec_of_writesCsr_locked hw (csrLocked_iff_writeForbidden.mpr (.inr ⟨.inr rfl, hp⟩))
  · exact loadStore_busy _ _ _ hp
  · exact loadStore_busy _ _ _ hp

/-- Settles O54: the status tells the cause, and each cause raises the status. -/
theorem illegalStateHasExactlyTheListedCauses : Obligations.IllegalStateHasExactlyTheListedCauses := by
  intro i s
  constructor
  · rintro ⟨t, ht, hr⟩
    rcases exec_responds ht hr with ⟨-, hcause, -⟩ | ⟨hok, -⟩
    · exact hcause.mp rfl
    · cases hok
  · intro h
    exact ⟨_, exec_of_illegalStateCause h, rfl⟩

/-! ### The statuses of a presented word (R215) -/

/-- A word that the decoder rejects runs to IllegalCommand (R204). -/
theorem runCommand_rejected {w : Word} {e : Reject} (h : decode w = .error e) (s : State) :
    runCommand w s = illegalCommand w s.countCommand := by
  unfold runCommand
  rw [h]

/-- Format K has no bit that must be zero, so that every word with CSRWI's opcode is a CSRWI (R61). -/
theorem decode_of_csrwi_opcode {w : Word} (h : (opcodeField w).toNat = 0x06) :
    decode w = .ok (.csrwi (w.extractLsb' 8 8) (immField w)) := by
  unfold decode
  rw [h]
  rfl

/-- Settles O10: a decoded command answers OK or a status of its row, and a rejected word the decoder's. -/
theorem statusesByCommand : Obligations.StatusesByCommand := by
  refine ⟨fun i s t c ht hr => ?decoded, fun s w rest e hs hd => ?rejected, fun w hw => ?csrwi⟩
  case decoded =>
    rcases exec_responds ht hr with ⟨hmem, -, -⟩ | ⟨hok, -⟩
    · exact .inr hmem
    · exact .inl hok
  case rejected => exact ⟨_, (step_command hs).trans (runCommand_rejected hd _), rfl⟩
  case csrwi => exact ⟨_, _, decode_of_csrwi_opcode (by simpa [opcodeField] using hw)⟩

/-! ### The reset state (R231) -/

/-- The reset state is what a reset leaves of it. -/
theorem resetBlock_reset : State.reset.resetBlock = State.reset := rfl

/-- EMSA_HASHLEN reads HASH_OUT_LEN (R27). -/
theorem State.readCsr_emsaHashLen_toNat (s : State) : (s.readCsr .emsaHashLen).toNat = s.hashOutLen := by
  obtain ⟨-, hhi⟩ := s.hashOutLen_bounds
  exact word_toNat_of_lt (hhi.trans_lt (by norm_num))

/-- Settles O18: a reset puts every item at its reset value, and with FROZEN 0 and empty stores the derived CSRs
read 0. -/
theorem resetStateIsAtReset : Obligations.ResetStateIsAtReset := by
  refine ⟨resetBlock_reset ▸ atReset_resetBlock State.reset, ?_, State.reset.readCsr_emsaHashLen_toNat⟩
  simp only [List.forall_mem_cons, List.not_mem_nil, false_implies, implies_true, and_true]
  exact ⟨rfl, rfl, rfl, rfl, rfl, rfl⟩

/-- Settles O49: a reset establishes the invariant. -/
theorem invariantHoldsAtReset : Obligations.InvariantHoldsAtReset := by
  have h := blockInv_resetBlock State.reset
  rwa [resetBlock_reset] at h

end Sys2Proof.Machine
end
